-- ==== Sys2Proof/Word.lean ====
section
/-! DEFINITION. The plain words of the block (spec/00_scope.md R10): a byte, a nibble and the
ten slot levels of one serial frame. Every quantity is unsigned. -/

namespace Sys2Proof

/-- A byte, 0..255 (R10). -/
abbrev Byte := BitVec 8

/-- Four bits, 0..15: an action code or a MIDI channel (R99). -/
abbrev Nibble := BitVec 4

/-- The ten slot levels of a `SER10` frame as one word: slot `k` is bit `9 - k` (R92, R111). -/
abbrev Slots := BitVec 10

end Sys2Proof
end

