-- ==== Sys2Proof/Config.lean ====
section
/-! DEFINITION. The implementation parameters of spec/00_scope.md R7 with their constraints (R7, R9),
the reference configuration `CFG_REF` (R7, R8), and the free values the spec leaves open. -/

namespace Sys2Proof

/-- Visibility of the other side's ring buffer index (R71, R72; parameter `RB_VIEW`). -/
inductive RbView where
  | immediate
  | stale
deriving DecidableEq, Repr

/-- Operating mode of the assembler and the allocator (R220; parameter `MODE`). -/
inductive Mode where
  | live
  | sequenced
deriving DecidableEq, Repr

/-- The configuration (R7). It is sampled at reset release and constant afterwards (R38, R306).
Times named `t…` are whole microseconds, where R7
types them "microseconds" only (DESIGN CHOICE, notes/assumptions/25.md). `BIT_RATE` is the rational `bitRateNum / bitRateDen`, not
necessarily in lowest terms (notes/assumptions/3.md). `N_NOTES` is the length of `intervalUs`. -/
structure Config where
  /-- `N_CH`: number of motor channels. -/
  nCh : Nat
  /-- `INTERVAL_US`: pulse interval in microseconds per note code. -/
  intervalUs : List Nat
  /-- `KEY_OFFSET`. -/
  keyOffset : Nat
  /-- `START_SENTINEL`. -/
  startSentinel : Byte
  /-- `OFF_SENTINEL`. -/
  offSentinel : Byte
  /-- `READY_BYTE`. -/
  readyByte : Byte
  /-- `KEEPALIVE_BYTE`. -/
  keepaliveByte : Byte
  /-- Numerator of `BIT_RATE`, bits per second. -/
  bitRateNum : Nat
  /-- Denominator of `BIT_RATE`. -/
  bitRateDen : Nat
  /-- `RB_BUS_CAP`. -/
  rbBusCap : Nat
  /-- `RB_SER_CAP`. -/
  rbSerCap : Nat
  /-- `RB_VIEW`. -/
  rbView : RbView
  /-- `T_HOLD`. -/
  tHold : Nat
  /-- `T_SETUP`. -/
  tSetup : Nat
  /-- `T_GAP`. -/
  tGap : Nat
  /-- `T_LAT_MAX`. -/
  tLatMax : Nat
  /-- `T_SETTLE`. -/
  tSettle : Nat
  /-- `T_PULSE`, used by no rule. -/
  tPulse : Nat
  /-- `MODE`. -/
  mode : Mode
  /-- `SEQ_MAP`: motor channels per MIDI channel. -/
  seqMap : List (List Nat)
  /-- Whether this unit is a reading unit, its `CLK` edge detector wired to the bus (R155, R281,
  D40); not a parameter of R7 (notes/assumptions/6.md). -/
  listens : Bool
deriving DecidableEq, Repr

namespace Config

/-- `N_NOTES`, the length of the interval table (R7). -/
def nNotes (c : Config) : Nat := c.intervalUs.length

/-- The model's time unit is `1 / (2 * bitRateNum)` microseconds, so that every sample instant of
R187 is a whole number of ticks (notes/assumptions/3.md). -/
def ticksPerUs (c : Config) : Nat := 2 * c.bitRateNum

/-- `T_BIT / 2` in ticks: `T_BIT = 10^6 / BIT_RATE` microseconds (R7, D18). -/
def halfBit (c : Config) : Nat := 1000000 * c.bitRateDen

/-- `T_BIT` in ticks. -/
def bitTicks (c : Config) : Nat := 2 * c.halfBit

/-- The constraints of R7 and R9. `abbrev`, so that `decide` sees a decidable proposition. -/
abbrev Wf (c : Config) : Prop :=
  (1 ≤ c.nCh ∧ c.nCh ≤ 256) ∧
  (1 ≤ c.nNotes ∧ c.nNotes ≤ 255) ∧
  (∀ d ∈ c.intervalUs, 0 < d) ∧
  c.keyOffset ≤ 127 ∧
  c.keyOffset + c.nNotes - 1 ≤ 127 ∧
  c.nNotes ≤ c.offSentinel.toNat ∧
  127 < c.offSentinel.toNat ∧
  0 < c.bitRateNum ∧ 0 < c.bitRateDen ∧
  1 ≤ c.rbBusCap ∧ 1 ≤ c.rbSerCap ∧
  c.tLatMax + c.tSettle < c.tHold ∧
  0 < c.tPulse ∧
  c.seqMap.length = 16 ∧
  (∀ l ∈ c.seqMap, l.Pairwise (· < ·) ∧ ∀ m ∈ l, m < c.nCh)

/-- FREE VALUE (R72, U18). Under `RB_VIEW = STALE` a read of the other side's index returns any of
the values that index has held since this side's last read of it: which one is open. No body. -/
opaque staleLag : Nat → Nat

/-- FREE VALUE (U3). When a sample of `D` coincides with a drive each line is independently old or
new: a set bit takes the new level. No body. -/
opaque raceMask : Nat → Byte

end Config

/-- `INTERVAL_US` of `CFG_REF`, note codes 0 to 47 (R8). -/
def intervalRefLow : List Nat :=
  [36364, 34323, 32396, 30578, 28862, 27242, 25713, 24270,
   22908, 21622, 20408, 19263, 18182, 17161, 16198, 15289,
   14431, 13621, 12856, 12135, 11454, 10811, 10204, 9631,
   9091, 8581, 8099, 7645, 7215, 6810, 6428, 6067,
   5727, 5405, 5102, 4816, 4545, 4290, 4050, 3822,
   3608, 3405, 3214, 3034, 2863, 2703, 2551, 2408]

/-- `INTERVAL_US` of `CFG_REF`, note codes 48 to 87 (R8). -/
def intervalRefHigh : List Nat :=
  [2273, 2145, 2025, 1911, 1804, 1703, 1607, 1517,
   1432, 1351, 1276, 1204, 1136, 1073, 1012, 956,
   902, 851, 804, 758, 716, 676, 638, 602,
   568, 536, 506, 478, 451, 426, 402, 379,
   358, 338, 319, 301, 284, 268, 253, 239]

/-- The reference configuration `CFG_REF` (R7, R8, D37), with this unit a reading unit
(notes/assumptions/1.md, notes/assumptions/6.md). -/
def cfgRef : Config where
  nCh := 8
  intervalUs := intervalRefLow ++ intervalRefHigh
  keyOffset := 21
  startSentinel := 0xFF#8
  offSentinel := 0x80#8
  readyByte := 0xAA#8
  keepaliveByte := 0xFE#8
  bitRateNum := 31250
  bitRateDen := 1
  rbBusCap := 63
  rbSerCap := 63
  rbView := .immediate
  tHold := 50
  tSetup := 0
  tGap := 0
  tLatMax := 10
  tSettle := 1
  tPulse := 1
  mode := .live
  seqMap := [[0, 1], [1], [2, 3, 4], [], [], [], [], [], [], [], [], [], [], [], [], []]
  listens := true

end Sys2Proof
end

