-- ==== Sys2Proof/Syntax.lean ====
section
/-! DEFINITION. The operations and wire patterns of the block: one constructor of `Instr` per row of
spec/opcode_table.json (spec/30_encoding.md R104, R111), and the small types their operands need. -/

namespace Sys2Proof

/-- The two ring buffers (R131). -/
inductive RingId where
  | bus
  | ser
deriving DecidableEq, Repr

/-- The agents that execute a step (R13). -/
inductive Agent where
  | busr
  | sbd
  | client
  | env
deriving DecidableEq, Repr

/-- The action of a NoteEvent (R205). -/
inductive Action where
  | noteOn
  | noteOff
  | other
deriving DecidableEq, Repr

/-- A NoteEvent (R205). Key and velocity are a full byte wide (D38). -/
structure NoteEvent where
  action : Action
  channel : Nibble
  key : Byte
  velocity : Byte
deriving DecidableEq, Repr

/-- The framer's state (R31). -/
inductive PfState where
  | waitReady
  | idle
  | gotStart
  | gotF1
deriving DecidableEq, Repr

/-- One constructor per row of spec/opcode_table.json, in the table's order. The first 23 are the
operations of R104; the other 15 are the wire patterns of R91 to R103, each with the bits its
pattern leaves free as operands. -/
inductive Instr where
  /-- `RB.ENQ r, b` (R121). -/
  | rbEnq (r : RingId) (b : Byte)
  /-- `RB.DEQ r` (R122). -/
  | rbDeq (r : RingId)
  /-- `RB.EMPTY r` (R123). -/
  | rbEmpty (r : RingId)
  /-- `BUS.WRITE b` (R141). -/
  | busWrite (b : Byte)
  /-- `BUSW.DRIVE b` (R142). -/
  | buswDrive (b : Byte)
  /-- `BUSW.ASSERT` (R143). -/
  | buswAssert
  /-- `BUSW.DEASSERT` (R144). -/
  | buswDeassert
  /-- `BUS.SENDPKT f1, f2` (R147). -/
  | busSendpkt (f1 f2 : Byte)
  /-- `BUS.SENDREADY` (R148). -/
  | busSendready
  /-- `BUSR.EDGE` (R156). -/
  | busrEdge
  /-- `BUSR.SERVICE` (R157). -/
  | busrService
  /-- `BUS.HASDATA` (R159). -/
  | busHasdata
  /-- `BUS.READ` (R160). -/
  | busRead
  /-- `PF.STEP` (R161). -/
  | pfStep
  /-- `SBD.START` (R186). -/
  | sbdStart
  /-- `SBD.SAMPLE k` (R187). -/
  | sbdSample (k : Fin 10)
  /-- `SBD.FINISH` (R188). -/
  | sbdFinish
  /-- `SBD.FRAME s0..s9` (R192). -/
  | sbdFrame (slots : Slots)
  /-- `EA.BYTE b` (R206). -/
  | eaByte (b : Byte)
  /-- `VA.EVENT e` (R221). -/
  | vaEvent (e : NoteEvent)
  /-- `SS.PACKET f1, f2` (R241). -/
  | ssPacket (f1 f2 : Byte)
  /-- `SS.CHECK c` (R245). -/
  | ssCheck (c : Byte)
  /-- `SS.LOOP` (R246). -/
  | ssLoop
  /-- `BYTE`: one bus transfer of `b` on the pins (R91). -/
  | byte (b : Byte)
  /-- `SER.DATA`: a serial frame whose data bits are not the keep-alive value (R92, R192). -/
  | serData (slots : Slots)
  /-- `SER.KEEPALIVE`: a serial frame carrying the keep-alive value; slots 0 and 9 are free (R190). -/
  | serKeepalive (start stop : Bool)
  /-- `PKT.ON n, c` (R94, R244). -/
  | pktOn (n c : Byte)
  /-- `PKT.OFF c` (R94, R242). -/
  | pktOff (c : Byte)
  /-- `RDY`: the ready byte (R97, R162). -/
  | rdy
  /-- `BUSBYTE.PRE_READY`: any other byte met in `WAIT_READY` (R103, R162). -/
  | busbytePreReady (b : Byte)
  /-- `BUSBYTE.START`: the start sentinel met in `IDLE` (R103, R163). -/
  | busbyteStart
  /-- `BUSBYTE.UNSYNC`: any other byte met in `IDLE` (R103, R163). -/
  | busbyteUnsync (b : Byte)
  /-- `BUSBYTE.FIELD1`: a byte met in `GOT_START` (R103, R164). -/
  | busbyteField1 (b : Byte)
  /-- `BUSBYTE.FIELD2`: a byte met in `GOT_F1` (R103, R165). -/
  | busbyteField2 (b : Byte)
  /-- `EVT.NOTEON`: channel, key byte, velocity byte; bit 7 of the two bytes is ignored (R99). -/
  | evtNoteon (h : Nibble) (k v : Byte)
  /-- `EVT.NOTEOFF` (R99, R100). -/
  | evtNoteoff (h : Nibble) (k v : Byte)
  /-- `EVT.OTHER`: any other action code (R100, R207). -/
  | evtOther (a h : Nibble) (k v : Byte)
  /-- `EVT.SEQDISCARD`: the one-byte discard of sequenced mode (R208). -/
  | evtSeqdiscard (a h : Nibble)
deriving DecidableEq, Repr

/-- The wire formats of R90. `BYTE8` is decoded at two places: at the pins (`byte8`) and, taken out
of `RB_BUS`, at the framer (`framed8`, whose row depends on the framer state, R103). `LABEL` is the
client's and engines' own operation numbering. -/
inductive Format where
  | label
  | byte8
  | framed8
  | ser10
  | pkt24
  | rdy8
  | evt24
  | evt8
deriving DecidableEq, Repr

/-- One unit as it is presented: its format and its bytes, the first in time first (R64). A `SER10`
unit is the ten-bit word of R111 in two bytes, low byte first; a `LABEL` unit is the op id and four
operand bytes (notes/assumptions/9.md). -/
structure WireUnit where
  format : Format
  bytes : List Byte
deriving DecidableEq, Repr

end Sys2Proof
end

