-- ==== Sys2Proof/Machine/Operands.lean ====
section
/-! DEFINITION. Operand assembly: the fields the wire formats carry (spec/30_encoding.md R92 to R100),
the byte a serial frame packs (spec/43_serial_bit_decoder.md R188, R189), the note code
(spec/45_voice_allocator.md R224), sample instants (R187) and the level of the serial pin. -/

namespace Sys2Proof.Machine

open Sys2Proof

/-- The level of slot `k`, `0 ≤ k ≤ 9`: bit `9 - k` of the frame word (R92, R111). -/
def slot (w : Slots) (k : Nat) : Bool := w.getLsbD (9 - k)

/-- Sample `k` written into the sample register `sbd_s` (R187). -/
def setSlot (w : Slots) (k : Nat) (l : Bool) : Slots :=
  if l then w ||| BitVec.twoPow 10 (9 - k) else w &&& ~~~ BitVec.twoPow 10 (9 - k)

/-- Weight of one data slot in the sum of R188. -/
def slotWeight (w : Slots) (k weight : Nat) : Nat := if slot w k then weight else 0

/-- `v` of R188: data slot `k` carries bit `k - 1`, the first data slot the least significant (R189).
Slots 0 and 9 are not used (R196). -/
def packData (w : Slots) : Byte :=
  BitVec.ofNat 8 (slotWeight w 1 1 + slotWeight w 2 2 + slotWeight w 3 4 + slotWeight w 4 8
    + slotWeight w 5 16 + slotWeight w 6 32 + slotWeight w 7 64 + slotWeight w 8 128)

/-- The weight of slot `k` in the frame word (slot `k` is bit `9 - k`, R111). -/
def slotBit (l : Bool) (k : Nat) : Nat := if l then 2 ^ (9 - k) else 0

/-- The ten slots of a frame that carries byte `b`, least significant bit first, with the given start
and stop levels (R92). A well-formed frame has `start = false`, `stop = true`. -/
def frameSlots (start : Bool) (b : Byte) (stop : Bool) : Slots :=
  BitVec.ofNat 10 (slotBit start 0 + slotBit (b.getLsbD 0) 1 + slotBit (b.getLsbD 1) 2
    + slotBit (b.getLsbD 2) 3 + slotBit (b.getLsbD 3) 4 + slotBit (b.getLsbD 4) 5
    + slotBit (b.getLsbD 5) 6 + slotBit (b.getLsbD 6) 7 + slotBit (b.getLsbD 7) 8 + slotBit stop 9)

/-- Bits 7:4 of an action byte (R99). -/
def actionCode (b : Byte) : Nibble := b.extractLsb' 4 4

/-- Bits 3:0 of an action byte: the MIDI channel (R99). -/
def actionChannel (b : Byte) : Nibble := b.extractLsb' 0 4

/-- An action byte from its two fields (R99). -/
def actionByte (code h : Nibble) : Byte := code ++ h

/-- The action of an action code: `0x9` NoteOn, `0x8` NoteOff (from general knowledge, D34), else
Other (R100). -/
def actionOf (code : Nibble) : Action :=
  if code = 9#4 then .noteOn else if code = 8#4 then .noteOff else .other

/-- Whether an action code is one of the two note codes (R208). -/
def isNoteCode (code : Nibble) : Bool := code = 9#4 || code = 8#4

/-- Bits 6:0 of a key or velocity byte; bit 7 is not examined (R99). -/
def low7 (b : Byte) : Byte := b &&& 0x7F#8

/-- `NoteCode(key) = key - KEY_OFFSET` (R224); `none` outside the range, where R224 refuses. -/
def noteCode (c : Config) (key : Byte) : Option Byte :=
  if c.keyOffset ≤ key.toNat ∧ key.toNat < c.keyOffset + c.nNotes then
    some (BitVec.ofNat 8 (key.toNat - c.keyOffset))
  else none

/-- The instant of sample `k` of a frame whose start edge was at `t0`, in ticks:
`t0 + T_BIT/2 + k * T_BIT` (R187). -/
def sampleTick (c : Config) (t0 k : Nat) : Nat := t0 + c.halfBit + k * c.bitTicks

/-- `level(RX, t)` (R11): the level after the last recorded change at or before `t`; before the first
one the line is taken at its idle level 1 (R21). The list is newest first. -/
def levelAt : List (Nat × Bool) → Nat → Bool
  | [], _ => true
  | (t0, l) :: older, t => if t0 ≤ t then l else levelAt older t

end Sys2Proof.Machine
end

