-- ==== Sys2Proof/WellFormed.lean ====
section
/-! DEFINITION. Which operands an instruction admits: the operand types of spec/30_encoding.md R104 and
the exclusions of the table's rows (R94, R100, R101, R103). -/

namespace Sys2Proof

open Sys2Proof.Machine

/-- The field ranges of a NoteEvent: keys and velocities are 0..127 for NoteOn and NoteOff, and both
equal `OFF_SENTINEL` for Other (R205). -/
def NoteEvent.wf (c : Config) (e : NoteEvent) : Bool :=
  match e.action with
  | .other => e.key == c.offSentinel && e.velocity == c.offSentinel
  | .noteOn => decide (e.key.toNat ≤ 127) && decide (e.velocity.toNat ≤ 127)
  | .noteOff => decide (e.key.toNat ≤ 127) && decide (e.velocity.toNat ≤ 127)

/-- The operands of an instruction are ones its row of the table admits, under configuration `c`. -/
def Instr.wf (c : Config) : Instr → Bool
  | .rbEnq _ _ => true
  | .rbDeq _ => true
  | .rbEmpty _ => true
  | .busWrite _ => true
  | .buswDrive _ => true
  | .buswAssert => true
  | .buswDeassert => true
  | .busSendpkt _ _ => true
  | .busSendready => true
  | .busrEdge => true
  | .busrService => true
  | .busHasdata => true
  | .busRead => true
  | .pfStep => true
  | .sbdStart => true
  | .sbdSample _ => true
  | .sbdFinish => true
  | .sbdFrame _ => true
  | .eaByte _ => true
  | .vaEvent e => e.wf c
  | .ssPacket _ _ => true
  | .ssCheck ch => decide (ch.toNat < c.nCh)
  | .ssLoop => true
  | .byte _ => true
  | .serData w => packData w != c.keepaliveByte
  | .serKeepalive _ _ => true
  | .pktOn n _ => n != c.offSentinel
  | .pktOff _ => true
  | .rdy => true
  | .busbytePreReady b => b != c.readyByte
  | .busbyteStart => true
  | .busbyteUnsync b => b != c.startSentinel
  | .busbyteField1 _ => true
  | .busbyteField2 _ => true
  | .evtNoteon _ _ _ => true
  | .evtNoteoff _ _ _ => true
  | .evtOther a _ _ _ => !isNoteCode a
  | .evtSeqdiscard a _ => !isNoteCode a

/-- The framer state in which a row of the decode map R103 is the one that is read: the table's
`context`. Every other row is read in any state. -/
def Instr.inContext (p : PfState) : Instr → Bool
  | .busbytePreReady _ => p == .waitReady
  | .busbyteStart => p == .idle
  | .busbyteUnsync _ => p == .idle
  | .busbyteField1 _ => p == .gotStart
  | .busbyteField2 _ => p == .gotF1
  | .rbEnq _ _ => true
  | .rbDeq _ => true
  | .rbEmpty _ => true
  | .busWrite _ => true
  | .buswDrive _ => true
  | .buswAssert => true
  | .buswDeassert => true
  | .busSendpkt _ _ => true
  | .busSendready => true
  | .busrEdge => true
  | .busrService => true
  | .busHasdata => true
  | .busRead => true
  | .pfStep => true
  | .sbdStart => true
  | .sbdSample _ => true
  | .sbdFinish => true
  | .sbdFrame _ => true
  | .eaByte _ => true
  | .vaEvent _ => true
  | .ssPacket _ _ => true
  | .ssCheck _ => true
  | .ssLoop => true
  | .byte _ => true
  | .serData _ => true
  | .serKeepalive _ _ => true
  | .pktOn _ _ => true
  | .pktOff _ => true
  | .rdy => true
  | .evtNoteon _ _ _ => true
  | .evtNoteoff _ _ _ => true
  | .evtOther _ _ _ _ => true
  | .evtSeqdiscard _ _ => true

end Sys2Proof
end

