-- ==== Sys2Proof/Decode.lean ====
section
/-! DEFINITION. The decoder of spec/30_encoding.md (R90 to R104): total on any bytes, rejecting by name;
then the encoder written from the same tables; then the host's `decodeTableWord`. -/

namespace Sys2Proof

open Sys2Proof.Machine

/-- Why a unit names no instruction. Every reason is safe: nothing runs. -/
inductive DecodeError where
  /-- The op id is none of R104: "a model's decoder of labels refuses them". -/
  | unknownOpId (op : Byte)
  /-- The ring buffer operand is neither `RB_SER` (0) nor `RB_BUS` (1) (R131). -/
  | noSuchRing (b : Byte)
  /-- The sample number is above 9 (R187). -/
  | noSuchSample (b : Byte)
  /-- The upper six bits of a ten-slot word are not zero (R92). -/
  | slotBitsAboveTen (b : Byte)
  /-- The action operand is none of NoteOn (0), NoteOff (1), Other (2) (R205). -/
  | noSuchAction (b : Byte)
  /-- The MIDI channel operand is above 15 (R205). -/
  | midiChannelRange (b : Byte)
  /-- The key or velocity of an event is outside the range R205 gives its action. -/
  | eventFieldRange
  /-- The operand of SS.CHECK is not below `N_CH` (R61, R245). -/
  | channelRange (b : Byte)
  /-- An operand byte the operation does not have is not zero. -/
  | unusedOperand
  /-- The first byte of a packet is not `START_SENTINEL` (R93). -/
  | notStartSentinel (b : Byte)
  /-- The one byte of a ready unit is not `READY_BYTE` (R97). -/
  | notReadyByte (b : Byte)
  /-- A one-byte event unit whose action code is a note code is no discard (R208). -/
  | noteCodeInDiscard (b : Byte)
  /-- The unit has not the length of its format (R90). -/
  | wrongLength (f : Format) (n : Nat)
deriving DecidableEq, Repr

/-- What decoding reads beside the bytes: the configuration, and the framer state for the decode map
of R103. -/
structure DecodeContext where
  cfg : Config
  pf : PfState
deriving DecidableEq, Repr

/-- The instruction `i`, if the operand bytes `rest` it does not have are zero. -/
def onlyOperands (rest : List Byte) (i : Instr) : Except DecodeError Instr :=
  if rest.all (· == 0#8) then .ok i else .error .unusedOperand

/-- The ring buffer an operand byte names. -/
def ringOf (b : Byte) : Option RingId :=
  if b = 0#8 then some .ser else if b = 1#8 then some .bus else none

/-- The action an operand byte names. -/
def actionOperand (b : Byte) : Option Action :=
  if b = 0#8 then some .noteOn else if b = 1#8 then some .noteOff
  else if b = 2#8 then some .other else none

/-- The ten-bit word two bytes hold, low byte first. -/
def slotsOf (lo hi : Byte) : Except DecodeError Slots :=
  if hi.toNat < 4 then .ok (BitVec.ofNat 10 (256 * hi.toNat + lo.toNat))
  else .error (.slotBitsAboveTen hi)

/-- The event four operand bytes hold. -/
def eventOf (c : Config) (act chan key vel : Byte) : Except DecodeError NoteEvent :=
  match actionOperand act with
  | none => .error (.noSuchAction act)
  | some a =>
    if chan.toNat < 16 then
      let e : NoteEvent := ⟨a, chan.extractLsb' 0 4, key, vel⟩
      if e.wf c then .ok e else .error .eventFieldRange
    else .error (.midiChannelRange chan)

/-- An operation label with its four operand bytes (R104). -/
def decodeLabel (c : Config) (op w x y z : Byte) : Except DecodeError Instr :=
  match op.toNat with
  | 0x01 =>
    match ringOf w with
    | some r => onlyOperands [y, z] (.rbEnq r x)
    | none => .error (.noSuchRing w)
  | 0x02 =>
    match ringOf w with
    | some r => onlyOperands [x, y, z] (.rbDeq r)
    | none => .error (.noSuchRing w)
  | 0x03 =>
    match ringOf w with
    | some r => onlyOperands [x, y, z] (.rbEmpty r)
    | none => .error (.noSuchRing w)
  | 0x10 => onlyOperands [x, y, z] (.busWrite w)
  | 0x11 => onlyOperands [x, y, z] (.buswDrive w)
  | 0x12 => onlyOperands [w, x, y, z] .buswAssert
  | 0x13 => onlyOperands [w, x, y, z] .buswDeassert
  | 0x14 => onlyOperands [y, z] (.busSendpkt w x)
  | 0x15 => onlyOperands [w, x, y, z] .busSendready
  | 0x20 => onlyOperands [w, x, y, z] .busrEdge
  | 0x21 => onlyOperands [w, x, y, z] .busrService
  | 0x22 => onlyOperands [w, x, y, z] .busHasdata
  | 0x23 => onlyOperands [w, x, y, z] .busRead
  | 0x24 => onlyOperands [w, x, y, z] .pfStep
  | 0x30 => onlyOperands [w, x, y, z] .sbdStart
  | 0x31 =>
    if h : w.toNat < 10 then onlyOperands [x, y, z] (.sbdSample ⟨w.toNat, h⟩)
    else .error (.noSuchSample w)
  | 0x32 => onlyOperands [w, x, y, z] .sbdFinish
  | 0x33 =>
    match slotsOf w x with
    | .ok s => onlyOperands [y, z] (.sbdFrame s)
    | .error e => .error e
  | 0x40 => onlyOperands [x, y, z] (.eaByte w)
  | 0x50 =>
    match eventOf c w x y z with
    | .ok e => .ok (.vaEvent e)
    | .error e => .error e
  | 0x60 => onlyOperands [y, z] (.ssPacket w x)
  | 0x61 => if w.toNat < c.nCh then onlyOperands [x, y, z] (.ssCheck w) else .error (.channelRange w)
  | 0x62 => onlyOperands [w, x, y, z] .ssLoop
  | _ => .error (.unknownOpId op)

/-- The decode map of R103: one bus byte met by the framer in state `p`. -/
def decodeFramed (x : DecodeContext) (b : Byte) : Instr :=
  match x.pf with
  | .waitReady => if b = x.cfg.readyByte then .rdy else .busbytePreReady b
  | .idle => if b = x.cfg.startSentinel then .busbyteStart else .busbyteUnsync b
  | .gotStart => .busbyteField1 b
  | .gotF1 => .busbyteField2 b

/-- A serial frame by its data bits; slots 0 and 9 are not compared (R92, R190, R196). -/
def decodeSlots (c : Config) (w : Slots) : Instr :=
  if packData w = c.keepaliveByte then .serKeepalive (slot w 0) (slot w 9) else .serData w

/-- A packet by its field 1 (R94). -/
def decodePacket (c : Config) (s n ch : Byte) : Except DecodeError Instr :=
  if s = c.startSentinel then
    if n = c.offSentinel then .ok (.pktOff ch) else .ok (.pktOn n ch)
  else .error (.notStartSentinel s)

/-- An event frame by its action code (R99, R100). -/
def decodeEvent (a k v : Byte) : Instr :=
  if actionCode a = 9#4 then .evtNoteon (actionChannel a) k v
  else if actionCode a = 8#4 then .evtNoteoff (actionChannel a) k v
  else .evtOther (actionCode a) (actionChannel a) k v

/-- The decoder: every unit is an instruction or is rejected by name. -/
def decode (x : DecodeContext) (u : WireUnit) : Except DecodeError Instr :=
  match u.format, u.bytes with
  | .label, [op, w, y, z, t] => decodeLabel x.cfg op w y z t
  | .byte8, [b] => .ok (.byte b)
  | .framed8, [b] => .ok (decodeFramed x b)
  | .ser10, [lo, hi] =>
    match slotsOf lo hi with
    | .ok w => .ok (decodeSlots x.cfg w)
    | .error e => .error e
  | .pkt24, [s, n, c] => decodePacket x.cfg s n c
  | .rdy8, [b] => if b = x.cfg.readyByte then .ok .rdy else .error (.notReadyByte b)
  | .evt24, [a, k, v] => .ok (decodeEvent a k v)
  | .evt8, [a] =>
    if isNoteCode (actionCode a) then .error (.noteCodeInDiscard a)
    else .ok (.evtSeqdiscard (actionCode a) (actionChannel a))
  | f, bs => .error (.wrongLength f bs.length)

/-! ### The encoder -/

/-- The op id of an operation label (R104). -/
def labelUnit (op w x y z : Byte) : WireUnit := ⟨.label, [op, w, x, y, z]⟩

/-- The operand byte of a ring buffer. -/
def ringByte : RingId → Byte
  | .ser => 0#8
  | .bus => 1#8

/-- The operand byte of an action. -/
def actionOperandByte : Action → Byte
  | .noteOn => 0#8
  | .noteOff => 1#8
  | .other => 2#8

/-- The low byte of a ten-slot word. -/
def slotsLow (w : Slots) : Byte := w.setWidth 8

/-- The high byte of a ten-slot word. -/
def slotsHigh (w : Slots) : Byte := (w.extractLsb' 8 2).setWidth 8

/-- The unit an instruction is presented as. -/
def encode (c : Config) : Instr → WireUnit
  | .rbEnq r b => labelUnit 0x01#8 (ringByte r) b 0#8 0#8
  | .rbDeq r => labelUnit 0x02#8 (ringByte r) 0#8 0#8 0#8
  | .rbEmpty r => labelUnit 0x03#8 (ringByte r) 0#8 0#8 0#8
  | .busWrite b => labelUnit 0x10#8 b 0#8 0#8 0#8
  | .buswDrive b => labelUnit 0x11#8 b 0#8 0#8 0#8
  | .buswAssert => labelUnit 0x12#8 0#8 0#8 0#8 0#8
  | .buswDeassert => labelUnit 0x13#8 0#8 0#8 0#8 0#8
  | .busSendpkt f1 f2 => labelUnit 0x14#8 f1 f2 0#8 0#8
  | .busSendready => labelUnit 0x15#8 0#8 0#8 0#8 0#8
  | .busrEdge => labelUnit 0x20#8 0#8 0#8 0#8 0#8
  | .busrService => labelUnit 0x21#8 0#8 0#8 0#8 0#8
  | .busHasdata => labelUnit 0x22#8 0#8 0#8 0#8 0#8
  | .busRead => labelUnit 0x23#8 0#8 0#8 0#8 0#8
  | .pfStep => labelUnit 0x24#8 0#8 0#8 0#8 0#8
  | .sbdStart => labelUnit 0x30#8 0#8 0#8 0#8 0#8
  | .sbdSample k => labelUnit 0x31#8 (BitVec.ofNat 8 k.val) 0#8 0#8 0#8
  | .sbdFinish => labelUnit 0x32#8 0#8 0#8 0#8 0#8
  | .sbdFrame w => labelUnit 0x33#8 (slotsLow w) (slotsHigh w) 0#8 0#8
  | .eaByte b => labelUnit 0x40#8 b 0#8 0#8 0#8
  | .vaEvent e =>
    labelUnit 0x50#8 (actionOperandByte e.action) (e.channel.setWidth 8) e.key e.velocity
  | .ssPacket f1 f2 => labelUnit 0x60#8 f1 f2 0#8 0#8
  | .ssCheck ch => labelUnit 0x61#8 ch 0#8 0#8 0#8
  | .ssLoop => labelUnit 0x62#8 0#8 0#8 0#8 0#8
  | .byte b => ⟨.byte8, [b]⟩
  | .serData w => ⟨.ser10, [slotsLow w, slotsHigh w]⟩
  | .serKeepalive s t =>
    let w := frameSlots s c.keepaliveByte t
    ⟨.ser10, [slotsLow w, slotsHigh w]⟩
  | .pktOn n ch => ⟨.pkt24, [c.startSentinel, n, ch]⟩
  | .pktOff ch => ⟨.pkt24, [c.startSentinel, c.offSentinel, ch]⟩
  | .rdy => ⟨.rdy8, [c.readyByte]⟩
  | .busbytePreReady b => ⟨.framed8, [b]⟩
  | .busbyteStart => ⟨.framed8, [c.startSentinel]⟩
  | .busbyteUnsync b => ⟨.framed8, [b]⟩
  | .busbyteField1 b => ⟨.framed8, [b]⟩
  | .busbyteField2 b => ⟨.framed8, [b]⟩
  | .evtNoteon h k v => ⟨.evt24, [actionByte 9#4 h, k, v]⟩
  | .evtNoteoff h k v => ⟨.evt24, [actionByte 8#4 h, k, v]⟩
  | .evtOther a h k v => ⟨.evt24, [actionByte a h, k, v]⟩
  | .evtSeqdiscard a h => ⟨.evt8, [actionByte a h]⟩

/-! ### The table's words -/

/-- Byte `i` of a number, byte 0 the least significant. -/
def byteAt (w i : Nat) : Byte := BitVec.ofNat 8 (w / 256 ^ i)

/-- Whether a byte is an op id of R104. -/
def isOpId (w : Nat) : Bool :=
  [0x01, 0x02, 0x03, 0x10, 0x11, 0x12, 0x13, 0x14, 0x15, 0x20, 0x21, 0x22, 0x23, 0x24,
   0x30, 0x31, 0x32, 0x33, 0x40, 0x50, 0x60, 0x61, 0x62].contains (w % 256)

/-- The unit whose bits a row of the table numbers as `w`, in `nbits` bits, with the framer state in
which it is read. A row of 8 bits is an op id where `w` is one, else the ready byte or the start
sentinel of `c` in the framer state the table's `context` names, else a byte at the pins. A row of
up to 16 bits is a `SER10` word. A row of 24 bits has the first byte in time in bits 23:16 (R111): a
packet where that byte is the start sentinel, else an event. A longer number is a label with its
operand bytes, byte `i` in bits `8 i + 7 .. 8 i`. -/
def tableUnit (c : Config) (nbits w : Nat) : PfState × WireUnit :=
  if nbits ≤ 8 then
    if isOpId w then (.waitReady, labelUnit (byteAt w 0) 0#8 0#8 0#8 0#8)
    else if byteAt w 0 = c.readyByte then (.waitReady, ⟨.rdy8, [byteAt w 0]⟩)
    else if byteAt w 0 = c.startSentinel then (.idle, ⟨.framed8, [byteAt w 0]⟩)
    else (.waitReady, ⟨.byte8, [byteAt w 0]⟩)
  else if nbits ≤ 16 then (.waitReady, ⟨.ser10, [byteAt w 0, byteAt w 1]⟩)
  else if nbits ≤ 24 then
    if byteAt w 2 = c.startSentinel then
      (.waitReady, ⟨.pkt24, [byteAt w 2, byteAt w 1, byteAt w 0]⟩)
    else (.waitReady, ⟨.evt24, [byteAt w 2, byteAt w 1, byteAt w 0]⟩)
  else (.waitReady, labelUnit (byteAt w 0) (byteAt w 1) (byteAt w 2) (byteAt w 3) (byteAt w 4))

/-- The instruction the decoder reads from a table row's bits under `CFG_REF`, whose values the
table's `match` column gives (R111). -/
def decodeTableWord (nbits w : Nat) : Option Instr :=
  let (p, u) := tableUnit cfgRef nbits w
  match decode ⟨cfgRef, p⟩ u with
  | .ok i => some i
  | .error _ => none

end Sys2Proof
end

