-- ==== Sys2Proof/Machine/State.lean ====
section
/-! DEFINITION. The machine's state as plain data: every element of spec/10_state.md R20, the pins and
inputs of R21 and R41, and the model's own fields (marked so); the reasons a step stops; reset
(spec/70_reset_and_hazards.md R300 to R307). -/

namespace Sys2Proof.Machine

open Sys2Proof

/-- Storage cells as a list of (index, byte), in one canonical form: indices strictly rising, no entry
equal to what an unlisted index reads as. -/
abbrev Memory := List Host.Cell

/-- What an unlisted cell reads as: 0 (DESIGN CHOICE, unsafe: R300 leaves the cells unspecified;
notes/assumptions/2.md). -/
def unlistedByte : Byte := 0#8

/-- The canonical form of a memory. -/
abbrev Memory.wf (m : Memory) : Prop :=
  m.Pairwise (fun a b => a.1 < b.1) ∧ ∀ e ∈ m, e.2 ≠ unlistedByte

/-- A ring buffer (R25, R27). -/
structure Ring where
  /-- `buf[0 .. RB_SLOTS - 1]`. -/
  buf : Memory
  /-- Index of the cell the next dequeue reads; written by the consumer. -/
  head : Nat
  /-- Index of the cell the next enqueue writes; written by the producer. -/
  tail : Nat
  /-- `RB_VIEW = STALE` only: the producer's last view of `head`. -/
  seenHead : Nat
  /-- `RB_VIEW = STALE` only: the consumer's last view of `tail`. -/
  seenTail : Nat
  /-- MODEL, `RB_VIEW = STALE` only: what `head` was when the producer last read it (R72). -/
  heldHead : Nat
  /-- MODEL, `RB_VIEW = STALE` only: what `tail` was when the consumer last read it (R72). -/
  heldTail : Nat
deriving DecidableEq, Repr

/-- How far a BUS.WRITE has got (R29). -/
inductive BuswPhase where
  | idle
  | driven
  | asserted
deriving DecidableEq, Repr

/-- The assembler's state (R35). -/
inductive EaState where
  | awaitingAction
  | awaitingKey
  | awaitingVelocity
deriving DecidableEq, Repr

/-- A scheduler channel (R33). -/
structure Channel where
  active : Bool
  /-- Microseconds. -/
  interval : Nat
  /-- Microseconds. -/
  deadline : Nat
deriving DecidableEq, Repr

/-- The drop causes of R266 with the info the trace records. -/
inductive Drop where
  | rbFull (r : RingId) (b : Byte)
  | unsync (b : Byte)
  | preReady (b : Byte)
  | keepalive (b : Byte)
  | pktRange (f1 f2 : Byte)
  | noFreeChannel (e : NoteEvent)
  | noteoffUnheld (e : NoteEvent)
  | seqFrame (b : Byte)
  | lostEdge
deriving DecidableEq, Repr

/-- The observable events of R14. -/
inductive Event where
  | pulse (c t : Nat)
  | busByte (b : Byte)
  | deq (r : RingId) (v : Byte)
  | packet (f1 f2 : Byte)
  | event (e : NoteEvent)
  | drop (d : Drop)
deriving DecidableEq, Repr

/-- The response of an operation on its port (R22 to R24, R104 column `result`). -/
inductive Response where
  | nothing
  | bool (b : Bool)
  | byte (b : Byte)
  | optByte (x : Option Byte)
  | optPacket (x : Option (Byte × Byte))
  | optEvent (x : Option NoteEvent)
  | pairs (l : List (Byte × Byte))
deriving DecidableEq, Repr

/-- Which unit drives `D` and `CLK` (D11, R321): MODEL's own, an input from outside. -/
inductive BusDriver where
  | nobody
  | this
  | remote
deriving DecidableEq, Repr

/-- The next micro-step of an RB.ENQ in progress, with its locals `t`, `h`, `n` so far (R121). -/
inductive EnqPoint where
  | m1
  | m2 (t : Nat)
  | m3 (t h : Nat)
  | m4 (t n : Nat)
  | m5 (n : Nat)
deriving DecidableEq, Repr

/-- What an RB.ENQ in progress is part of: itself, or the handler of its engine (BUSR.SERVICE on
`RB_BUS`, SBD.FINISH or SBD.FRAME on `RB_SER`). -/
inductive EnqUse where
  | plain
  | handler
deriving DecidableEq, Repr

/-- An RB.ENQ in progress in a producer engine. -/
structure EnqOp where
  byte : Byte
  next : EnqPoint
  use : EnqUse
deriving DecidableEq, Repr

/-- The next micro-step of an RB.DEQ or RB.EMPTY in progress, with its locals `h`, `t`, `v` (R122,
R123). -/
inductive DeqPoint where
  | m1
  | m2 (h : Nat)
  | m3 (h t : Nat)
  | m4 (h : Nat)
  | m5 (h : Nat) (v : Byte)
deriving DecidableEq, Repr

/-- What an RB.DEQ or RB.EMPTY in progress is part of. -/
inductive DeqUse where
  | deq
  | read
  | framer
  | empty
  | hasdata
deriving DecidableEq, Repr

/-- A consumer operation in progress in the client. -/
structure DeqOp where
  ring : RingId
  next : DeqPoint
  use : DeqUse
deriving DecidableEq, Repr

/-- One entry of the stimulus program (R110): what happens next, and by whom. -/
inductive Request where
  /-- Agent `a` performs the whole operation, or meets the wire unit, `u`. -/
  | op (a : Agent) (u : WireUnit)
  /-- Agent `a` begins operation `u` at micro-step grain (R12). -/
  | start (a : Agent) (u : WireUnit)
  /-- Agent `a` performs the next micro-step of its operation in progress (R12). -/
  | micro (a : Agent)
  /-- `ENV: t = n`: the time becomes `t` ticks (R41, R110). -/
  | time (t : Nat)
  /-- The environment drives `RX` to level `l` (R21). -/
  | rx (l : Bool)
  /-- The environment, as a remote writer, drives `D` (R13). -/
  | driveD (b : Byte)
  /-- The environment, as a remote writer, drives `CLK` (R13). -/
  | driveClk (l : Bool)
  /-- The bus writer drives `D` at the very instant BUSR.SERVICE samples it (U3): `a` is the client
  (this unit's BUSW.DRIVE) or the environment (a remote writer). -/
  | driveDuringSample (a : Agent) (b : Byte)
deriving DecidableEq, Repr

/-- Why the machine faults. The hardware has no trap (R15, R265): a fault is the model's, and only in
a state or configuration that breaks R25, R33, R36 or R7, where an index names no element. Safe. -/
inductive Fault where
  /-- A ring buffer index is not below `RB_SLOTS` (R60, R61). Raised by the cell accesses of RB.ENQ and
  RB.DEQ. Safe: the machine stops. -/
  | noSuchCell (r : RingId) (i : Nat)
  /-- There is no channel record `ch[c]` although `c < N_CH` (R60). Raised by SS.PACKET and SS.CHECK.
  Safe. -/
  | noSuchChannel (c : Nat)
  /-- A `SEQ_MAP` entry names no `assignedKey` element (R60). Raised by VA.EVENT. Safe. -/
  | noSuchKey (m : Nat)
deriving DecidableEq, Repr

/-- Why a request names no step that the block or its environment has in the present state. Nothing is
used outside the spec by it, so R268 has no reason for it; the names are the model's
(notes/assumptions/13.md). Each is safe: nothing happens and nothing is proved of it. -/
inductive NoStep where
  /-- A micro-step or handler whose rule does not enable it now (R143, R144, R157, R187, R188). Raised by
  BUSW.ASSERT, BUSW.DEASSERT, BUSR.SERVICE, SBD.SAMPLE, SBD.FINISH and the sample during a drive. Safe. -/
  | notEnabled
  /-- The operand of SS.CHECK is not below `N_CH`, so it names no channel (R61). Raised by SS.CHECK. Safe. -/
  | noSuchOperand
  /-- RB.DEQ or RB.EMPTY requested by itself on `RB_BUS`, whose consumer port the client reaches only
  inside BUS.HASDATA, BUS.READ and PF.STEP (R22, R131). Raised by the step's discipline check. Safe. -/
  | notReachable
  /-- The next micro-step of an agent that has no operation in progress (R12). Raised by the micro-step
  requests. Safe. -/
  | nothingInProgress
  /-- A unit that names no instruction (R104). Raised by the fetch. Safe. -/
  | undecodable (e : DecodeError)
deriving DecidableEq, Repr

/-- Why a run is refused: the closed list of R268 for a use of the block outside the spec (R15 (3)), an
instruction with no meaning yet, and a request that names no step at all. Each is safe: nothing is
proved of the run. -/
inductive Refusal where
  /-- An instruction with no meaning yet; raised by `exec` only. Safe. -/
  | notModelled (mnemonic : String)
  /-- BUS.READ with `RB_BUS` empty (R160, D13). Raised by BUS.READ. Safe. -/
  | readEmpty
  /-- The discipline of R69 and R278 is broken: an agent performs an operation of another or one its
  context may not, or an operation begins before the last one of its side has completed (a handler
  re-entered, a second client operation). Raised by the step's discipline check, BUSW.DRIVE and what
  uses it, SBD.FRAME and the frame rows, and the sample during a drive. Safe. -/
  | spscViolation
  /-- The one-writer rule is broken: another unit drives the bus (R141, D11), or `D` is driven while
  `CLK = 1` (R321). Raised by BUSW.DRIVE and what uses it, and by the remote writer. Safe. -/
  | secondWriter
  /-- A NoteOn key outside the interval table (R224, D29). Raised by VA.EVENT. Safe. -/
  | keyOutOfRange
  /-- The environment supplies an earlier time than before: the time counter has wrapped (R41, R322).
  Raised by the environment's time entry. Safe. -/
  | timeWrap
  /-- The request names no step: nothing is used. Raised as `NoStep` says. Safe. -/
  | noStep (why : NoStep)
deriving DecidableEq, Repr

/-- The state of one block instance (R20), its inputs (R41, R21), and the model's own fields. -/
@[ext]
structure State where
  /-- The configuration: straps sampled at reset release, constant afterwards (R7, R306). -/
  cfg : Config
  /-- `RB_BUS`. -/
  rbBus : Ring
  /-- `RB_SER`. -/
  rbSer : Ring
  /-- Pins `D[7:0]` (R29). -/
  d : Byte
  /-- Pin `CLK` (R29). -/
  clk : Bool
  /-- `busw_phase` (R29). -/
  buswPhase : BuswPhase
  /-- `irq_pending` (R30). -/
  irqPending : Bool
  /-- `pf_state` (R31). -/
  pfState : PfState
  /-- `pf_f1` (R31). -/
  pfF1 : Byte
  /-- `sbd_busy` (R32). -/
  sbdBusy : Bool
  /-- `sbd_t0`, in ticks (R32). -/
  sbdT0 : Nat
  /-- `sbd_k`, 0..10 (R32). -/
  sbdK : Fin 11
  /-- `sbd_s[0 .. 9]`, sample `k` in bit `9 - k` (R32). -/
  sbdS : Slots
  /-- `ch[0 .. N_CH - 1]` (R33). -/
  ch : List Channel
  /-- Pins `STEP[0 .. N_CH - 1]` (R34). -/
  stepPin : List Bool
  /-- `ea_state` (R35). -/
  eaState : EaState
  /-- `ea_action` (R35). -/
  eaAction : Action
  /-- `ea_channel` (R35). -/
  eaChannel : Nibble
  /-- `ea_key` (R35). -/
  eaKey : Byte
  /-- `assignedKey[0 .. N_CH - 1]` (R36). -/
  assignedKey : List Byte
  /-- INPUT: the current time in ticks; `now()` is its whole microseconds (R41). -/
  time : Nat
  /-- INPUT: the level of pin `RX` (R21). -/
  rx : Bool
  /-- INPUT: the changes of `RX` so far, newest first, as (tick, level) (R11 `level(P, t)`). -/
  rxWave : List (Nat × Bool)
  /-- INPUT: how much longer than its lower bound each coming wait or gap lasts, in ticks (R141, R246). -/
  delays : List Nat
  /-- INPUT: the stimulus program still to come (R110). -/
  pending : List Request
  /-- MODEL: which unit drives the bus (D11). -/
  busDriver : BusDriver
  /-- MODEL: the time of the bus writer's last micro-step, from which the next wait counts (R141). -/
  busMark : Option Nat
  /-- MODEL: counts the free values read so far. -/
  freeCtr : Nat
  /-- MODEL: BUSR's enqueue in progress (R12). -/
  busrOp : Option EnqOp
  /-- MODEL: SBD's enqueue in progress (R12). -/
  sbdOp : Option EnqOp
  /-- MODEL: the client's dequeue or test in progress (R12). -/
  clientOp : Option DeqOp
  /-- MODEL: the response of the client's last operation (R22 to R24). -/
  clientResp : Response
  /-- MODEL: the response of BUSR's last operation (R22). -/
  busrResp : Response
  /-- MODEL: the response of SBD's last operation (R22). -/
  sbdResp : Response
  /-- MODEL: the observable events so far, oldest first (R14). -/
  trace : List Event
deriving DecidableEq, Repr

/-- An empty ring buffer (R300). -/
def Ring.reset : Ring := ⟨[], 0, 0, 0, 0, 0, 0⟩

/-- Reset release under configuration `c` at time `t`, pin `RX` at level `level` (R300 to R306). The
elements the spec leaves unspecified hold the values of notes/assumptions/2.md; `t` is arbitrary (R41),
and `RX` is expected to be 1 but need not be (R303). -/
def State.resetWith (c : Config) (t : Nat) (level : Bool) : State where
  cfg := c
  rbBus := Ring.reset
  rbSer := Ring.reset
  d := 0#8
  clk := false
  buswPhase := .idle
  irqPending := false
  pfState := .waitReady
  pfF1 := 0#8
  sbdBusy := false
  sbdT0 := 0
  sbdK := 0
  sbdS := 0#10
  ch := List.replicate c.nCh ⟨false, 0, 0⟩
  stepPin := List.replicate c.nCh false
  eaState := .awaitingAction
  eaAction := .noteOn
  eaChannel := 0#4
  eaKey := 0#8
  assignedKey := List.replicate c.nCh c.offSentinel
  time := t
  rx := level
  rxWave := [(t, level)]
  delays := []
  pending := []
  busDriver := .nobody
  busMark := none
  freeCtr := 0
  busrOp := none
  sbdOp := none
  clientOp := none
  clientResp := .nothing
  busrResp := .nothing
  sbdResp := .nothing
  trace := []

/-- The machine right after reset, in the reference configuration at time 0 with `RX` idle (R300 to
R307; notes/assumptions/1.md, notes/assumptions/2.md). -/
def State.reset : State := State.resetWith cfgRef 0 true

end Sys2Proof.Machine
end

