-- ==== Sys2Proof/Machine/Flags.lean ====
section
/-! DEFINITION. Status values that are computed and never stored (spec/10_state.md R26, R37): the memory
read and write of one cell, the derived quantities of a ring buffer, and the index an agent sees of the
other side (spec/20_memory.md R71, R72). -/

namespace Sys2Proof.Machine

open Sys2Proof

/-- One cell of a memory: the listed byte, else what an unlisted cell reads as. -/
def Memory.read : Memory → Nat → Byte
  | [], _ => unlistedByte
  | (a, b) :: rest, i => if a = i then b else Memory.read rest i

/-- The entry a cell needs: none where the byte is what an unlisted cell reads as. -/
def cellEntry (i : Nat) (b : Byte) : Memory := if b = unlistedByte then [] else [(i, b)]

/-- One cell written, keeping the canonical form. -/
def Memory.write : Memory → Nat → Byte → Memory
  | [], i, b => cellEntry i b
  | (a, x) :: rest, i, b =>
    if i < a then cellEntry i b ++ (a, x) :: rest
    else if i = a then cellEntry i b ++ rest
    else (a, x) :: Memory.write rest i b

/-- `RB_CAP_r` (R25). -/
def capacity (c : Config) : RingId → Nat
  | .bus => c.rbBusCap
  | .ser => c.rbSerCap

/-- `RB_SLOTS_r = RB_CAP_r + 1` (R25, D5). -/
def slots (c : Config) (r : RingId) : Nat := capacity c r + 1

/-- `(i + 1) mod RB_SLOTS` (R79). -/
def nextIndex (n i : Nat) : Nat := (i + 1) % n

/-- How far index `b` lies ahead of index `a` around a buffer of `n` cells. -/
def ahead (n a b : Nat) : Nat := (b + n - a) % n

/-- `empty(r)` (R26). -/
def Ring.isEmpty (q : Ring) : Bool := q.head == q.tail

/-- `full(r)`, of `n` cells (R26). -/
def Ring.isFull (n : Nat) (q : Ring) : Bool := nextIndex n q.tail == q.head

/-- `count(r) = (tail - head) mod RB_SLOTS` (R26), for indices below `n`. -/
def Ring.count (n : Nat) (q : Ring) : Nat := ahead n q.head q.tail

/-- `contents(r)` (R26): the bytes held, oldest first. -/
def Ring.contents (n : Nat) (q : Ring) : List Byte :=
  (List.range (q.count n)).map fun k => q.buf.read ((q.head + k) % n)

/-- What an agent sees of the other side's index under `RB_VIEW = STALE`: some value the index has held
at or after this agent's previous read, when it was `held`, never an earlier one (R72). The index moves
by single steps, so those values are `held, held + 1, …, now` around the buffer; `lag` picks one. Where the
other side has published since that read, the old index is among them, also where R124's column `STALE`
would have the buffer full or empty since then: R72 is followed (DESIGN CHOICE, notes/assumptions/10.md). -/
def staleIndex (n held now lag : Nat) : Nat :=
  (held + lag % (ahead n held now + 1)) % n

end Sys2Proof.Machine
end

