-- ==== Sys2Proof/Machine/Ops.lean ====
section
/-! DEFINITION. The shared operations of the block: the trace, the drop (which stands in place of an
exception, spec/60_exceptions.md R265, R266), responses, time and waits, and the micro-steps and whole
operations of a ring buffer (spec/40_ringbuffer.md R121 to R123). -/

namespace Sys2Proof.Machine

open Sys2Proof

/-- The outcome of one operation. -/
abbrev Out := Host.Outcome State Fault Refusal

/-- Do `f` in the next state of `o`; a stop stays the stop it is. -/
def andThen (o : Out) (f : State → Out) : Out :=
  match o with
  | .next s => f s
  | .fault x => .fault x
  | .refused x => .refused x

/-- `f` for every element in turn, stopping at the first stop. -/
def forEach {α : Type} (f : α → State → Out) : List α → State → Out
  | [], s => .next s
  | a :: rest, s => andThen (f a s) (forEach f rest)

/-! ### Trace, drops, responses -/

/-- `emit <event>` (R11, R14). -/
def State.emit (s : State) (e : Event) : State := { s with trace := s.trace ++ [e] }

/-- `drop <Cause>(info)` (R11, R265): the drop is recorded in the trace and nothing else changes. It is
what this block has in place of taking an exception: nothing is saved, vectored or returned from. -/
def State.drop (s : State) (d : Drop) : State := s.emit (.drop d)

/-- The number R266 gives a drop cause; no state holds it. -/
def Drop.number : Drop → Nat
  | .rbFull _ _ => 1
  | .unsync _ => 2
  | .preReady _ => 3
  | .keepalive _ => 4
  | .pktRange _ _ => 5
  | .noFreeChannel _ => 6
  | .noteoffUnheld _ => 7
  | .seqFrame _ => 8
  | .lostEdge => 9

/-- The response of an operation on the port of the agent that performed it (R22 to R24). The
environment has no port. -/
def State.respond (s : State) (a : Agent) (x : Response) : State :=
  match a with
  | .client => { s with clientResp := x }
  | .busr => { s with busrResp := x }
  | .sbd => { s with sbdResp := x }
  | .env => s

/-- The one producer of a ring buffer (R131). -/
def producer : RingId → Agent
  | .bus => .busr
  | .ser => .sbd

/-! ### Time -/

/-- `now()`: whole microseconds (R41). -/
def State.now (s : State) : Nat := s.time / s.cfg.ticksPerUs

/-- The environment's next delay is used up and time passes by it (R41, R141: waits are lower bounds). -/
def State.passDelay (s : State) : State :=
  match s.delays with
  | [] => s
  | d :: rest => { s with time := s.time + d, delays := rest }

/-- The bus writer waits until at least `us` microseconds after its last micro-step, and marks the new
one (R141). Before the first write there is nothing to wait for. -/
def State.waitBus (s : State) (us : Nat) : State :=
  let ready := match s.busMark with
    | none => s.time
    | some m => max s.time (m + us * s.cfg.ticksPerUs)
  let s1 := State.passDelay { s with time := ready }
  { s1 with busMark := some s1.time }

/-! ### Ring buffers -/

/-- The ring buffer named `r`. -/
def State.ring (s : State) : RingId → Ring
  | .bus => s.rbBus
  | .ser => s.rbSer

/-- The ring buffer named `r` replaced. -/
def State.setRing (s : State) (r : RingId) (q : Ring) : State :=
  match r with
  | .bus => { s with rbBus := q }
  | .ser => { s with rbSer := q }

/-- `RB_SLOTS_r` of this unit. -/
def State.slotsOf (s : State) (r : RingId) : Nat := slots s.cfg r

/-- One free value has been used up. -/
def State.useFree (s : State) : State := { s with freeCtr := s.freeCtr + 1 }

/-- Micro-step m2 of RB.ENQ: the producer reads `head` (R121; R71, R72). -/
def readHead (r : RingId) (s : State) : Nat × State :=
  match s.cfg.rbView with
  | .immediate => ((s.ring r).head, s)
  | .stale =>
    let q := s.ring r
    let h := staleIndex (s.slotsOf r) q.heldHead q.head (Config.staleLag s.freeCtr)
    (h, (s.setRing r { q with seenHead := h, heldHead := q.head }).useFree)

/-- Micro-step m2 of RB.DEQ and RB.EMPTY: the consumer reads `tail` (R122, R123; R71, R72). -/
def readTail (r : RingId) (s : State) : Nat × State :=
  match s.cfg.rbView with
  | .immediate => ((s.ring r).tail, s)
  | .stale =>
    let q := s.ring r
    let t := staleIndex (s.slotsOf r) q.heldTail q.tail (Config.staleLag s.freeCtr)
    (t, (s.setRing r { q with seenTail := t, heldTail := q.tail }).useFree)

/-- `MemWrite(r.buf, i, 1, b)` (R11): micro-step m4 of RB.ENQ. A cell that does not exist faults. -/
def writeCell (r : RingId) (i : Nat) (b : Byte) (s : State) : Except Fault State :=
  if i < s.slotsOf r then
    .ok (s.setRing r { s.ring r with buf := (s.ring r).buf.write i b })
  else .error (.noSuchCell r i)

/-- `MemRead(r.buf, i, 1)` (R11): micro-step m4 of RB.DEQ. A cell that does not exist faults. -/
def readCell (r : RingId) (i : Nat) (s : State) : Except Fault Byte :=
  if i < s.slotsOf r then .ok ((s.ring r).buf.read i) else .error (.noSuchCell r i)

/-- Micro-step m5 of RB.ENQ: publication of `tail` (R121). -/
def publishTail (r : RingId) (n : Nat) (s : State) : State :=
  s.setRing r { s.ring r with tail := n }

/-- Micro-step m5 of RB.DEQ: publication of `head`, and the `deq` event (R122). -/
def publishHead (r : RingId) (h : Nat) (v : Byte) (s : State) : State :=
  (s.setRing r { s.ring r with head := nextIndex (s.slotsOf r) h }).emit (.deq r v)

/-- RB.ENQ as one operation: its result and the state after (R121, m1 to m5 without interruption). -/
def enqueue (r : RingId) (b : Byte) (s : State) : Except Fault (Bool × State) :=
  let t := (s.ring r).tail
  let (h, s2) := readHead r s
  let n := nextIndex (s.slotsOf r) t
  if n = h then .ok (false, s2.drop (.rbFull r b))
  else
    match writeCell r t b s2 with
    | .ok s4 => .ok (true, publishTail r n s4)
    | .error f => .error f

/-- RB.DEQ as one operation: its result and the state after (R122, m1 to m5 without interruption). -/
def dequeue (r : RingId) (s : State) : Except Fault (Option Byte × State) :=
  let h := (s.ring r).head
  let (t, s2) := readTail r s
  if h = t then .ok (none, s2)
  else
    match readCell r h s2 with
    | .ok v => .ok (some v, publishHead r h v s2)
    | .error f => .error f

/-- RB.EMPTY as one operation (R123). -/
def testEmpty (r : RingId) (s : State) : Bool × State :=
  let (t, s2) := readTail r s
  ((s.ring r).head == t, s2)

/-- An enqueue whose result the engine ignores (R126, R157, R188). -/
def enqueueIgnoring (r : RingId) (b : Byte) (s : State) : Out :=
  match enqueue r b s with
  | .ok (_, s') => .next s'
  | .error f => .fault f

/-! ### Ring buffer operations at micro-step grain (R12) -/

/-- The enqueue in progress in the producer of `r`. -/
def State.enqOp (s : State) : RingId → Option EnqOp
  | .bus => s.busrOp
  | .ser => s.sbdOp

/-- The enqueue in progress in the producer of `r` replaced. -/
def State.setEnqOp (s : State) (r : RingId) (o : Option EnqOp) : State :=
  match r with
  | .bus => { s with busrOp := o }
  | .ser => { s with sbdOp := o }

/-- The handler of the producer of `r` ends after its enqueue: SBD is armed again (R157, R188). -/
def endHandler (r : RingId) (s : State) : State :=
  match r with
  | .bus => s
  | .ser => { s with sbdBusy := false }

/-- The end of an enqueue with result `ok`: what it was part of completes (R121, R157, R188). -/
def finishEnq (r : RingId) (use : EnqUse) (ok : Bool) (s : State) : State :=
  let s1 := s.setEnqOp r none
  match use with
  | .plain => s1.respond (producer r) (.bool ok)
  | .handler => (endHandler r s1).respond (producer r) .nothing

/-- One micro-step of the enqueue in progress in the producer of `r` (R121). -/
def enqMicro (r : RingId) (s : State) : Out :=
  match s.enqOp r with
  | none => .refused (.noStep .nothingInProgress)
  | some op =>
    match op.next with
    | .m1 => .next (s.setEnqOp r (some { op with next := .m2 (s.ring r).tail }))
    | .m2 t =>
      let (h, s2) := readHead r s
      .next (s2.setEnqOp r (some { op with next := .m3 t h }))
    | .m3 t h =>
      let n := nextIndex (s.slotsOf r) t
      if n = h then .next (finishEnq r op.use false (s.drop (.rbFull r op.byte)))
      else .next (s.setEnqOp r (some { op with next := .m4 t n }))
    | .m4 t n =>
      match writeCell r t op.byte s with
      | .ok s4 => .next (s4.setEnqOp r (some { op with next := .m5 n }))
      | .error f => .fault f
    | .m5 n => .next (finishEnq r op.use true (publishTail r n s))

/-- At most `k` micro-steps of the enqueue in progress, none where there is none. -/
def enqMicros (r : RingId) : Nat → State → Out
  | 0, s => .next s
  | k + 1, s => if (s.enqOp r).isSome then andThen (enqMicro r s) (enqMicros r k) else .next s

/-- The producer of `r` brings its enqueue in progress, if any, to its end: at most five micro-steps
(R121: "at most five micro-steps whatever the consumer does"). -/
def completeEnq (r : RingId) (s : State) : Out := enqMicros r 5 s

end Sys2Proof.Machine
end

