-- ==== Sys2Proof/Machine/Allocator.lean ====
section
/-! DEFINITION. The voice allocator (spec/45_voice_allocator.md): VA.EVENT. -/

namespace Sys2Proof.Machine

open Sys2Proof

/-- `is_on` (R221). -/
def isOn (e : NoteEvent) : Bool := e.action = .noteOn && e.velocity != 0#8

/-- `is_off` (R221): a NoteOff, or a NoteOn with velocity 0. -/
def isOff (e : NoteEvent) : Bool := e.action = .noteOff || (e.action = .noteOn && e.velocity == 0#8)

/-- The first channel, in ascending order, whose `assignedKey` is `k` (R222, R223). -/
def firstHolding (k : Byte) (s : State) : Option Nat :=
  (List.range s.cfg.nCh).find? fun i => s.assignedKey[i]? = some k

/-- `assignedKey[i] <- k`. -/
def assignKey (i : Nat) (k : Byte) (s : State) : State :=
  { s with assignedKey := s.assignedKey.set i k }

/-- The allocator answers the client with the pairs to send. -/
def answerPairs (l : List (Byte × Byte)) (s : State) : Out :=
  .next (s.respond .client (.pairs l))

/-- A channel index as field 2 (R96). -/
def channelByte (i : Nat) : Byte := BitVec.ofNat 8 i

/-- Live NoteOn with velocity above 0: the first free channel is taken (R222). -/
def liveOn (e : NoteEvent) (s : State) : Out :=
  match firstHolding s.cfg.offSentinel s with
  | none => answerPairs [] (s.drop (.noFreeChannel e))
  | some i =>
    match noteCode s.cfg e.key with
    | none => .refused .keyOutOfRange
    | some n => answerPairs [(n, channelByte i)] (assignKey i e.key s)

/-- Live NoteOff: the first channel that holds the key is released (R223). -/
def liveOff (e : NoteEvent) (s : State) : Out :=
  match firstHolding e.key s with
  | none => answerPairs [] (s.drop (.noteoffUnheld e))
  | some i => answerPairs [(s.cfg.offSentinel, channelByte i)] (assignKey i s.cfg.offSentinel s)

/-- `SEQ_MAP[m]` (R7). -/
def mappedChannels (c : Config) (m : Nibble) : List Nat := c.seqMap.getD m.toNat []

/-- One mapped channel written in sequenced mode; an entry that names no channel faults (R226). -/
def assignMapped (k : Byte) (m : Nat) (s : State) : Out :=
  if m < s.assignedKey.length then .next (assignKey m k s) else .fault (.noSuchKey m)

/-- Sequenced NoteOn with velocity above 0: every mapped channel (R226). A note code is needed only if
there is one. -/
def seqOn (e : NoteEvent) (s : State) : Out :=
  match mappedChannels s.cfg e.channel with
  | [] => answerPairs [] s
  | m :: ms =>
    match noteCode s.cfg e.key with
    | none => .refused .keyOutOfRange
    | some n =>
      andThen (forEach (assignMapped e.key) (m :: ms) s)
        (answerPairs ((m :: ms).map fun i => (n, channelByte i)))

/-- Sequenced NoteOff: every mapped channel is switched off, whatever key it holds (R227). -/
def seqOff (e : NoteEvent) (s : State) : Out :=
  andThen (forEach (assignMapped s.cfg.offSentinel) (mappedChannels s.cfg e.channel) s)
    (answerPairs ((mappedChannels s.cfg e.channel).map fun i => (s.cfg.offSentinel, channelByte i)))

/-- `VA.EVENT e` (R221). -/
def execVaEvent (e : NoteEvent) (s : State) : Out :=
  match s.cfg.mode with
  | .live => if isOn e then liveOn e s else if isOff e then liveOff e s else answerPairs [] s
  | .sequenced => if isOn e then seqOn e s else if isOff e then seqOff e s else answerPairs [] s

end Sys2Proof.Machine
end

