-- ==== Sys2Proof/Machine/Assembler.lean ====
section
/-! DEFINITION. The event assembler (spec/44_event_assembler.md): EA.BYTE, and the event frames
EVT.NOTEON, EVT.NOTEOFF, EVT.OTHER and EVT.SEQDISCARD, whose bytes the client gives it in turn. -/

namespace Sys2Proof.Machine

open Sys2Proof

/-- The action byte opens a frame (R207). -/
def openFrame (b : Byte) (s : State) : State :=
  { s with
    eaAction := actionOf (actionCode b)
    eaChannel := actionChannel b
    eaState := .awaitingKey }

/-- A key or velocity field: the low seven bits, or `OFF_SENTINEL` for Other (R209, R210). -/
def eventField (s : State) (b : Byte) : Byte :=
  if s.eaAction = .other then s.cfg.offSentinel else low7 b

/-- EA.BYTE (R206 to R210): its result and the state after. -/
def assemble (b : Byte) (s : State) : Option NoteEvent × State :=
  match s.eaState with
  | .awaitingAction =>
    match s.cfg.mode with
    | .live => (none, openFrame b s)
    | .sequenced =>
      if isNoteCode (actionCode b) then (none, openFrame b s)
      else (none, s.drop (.seqFrame b))
  | .awaitingKey => (none, { s with eaKey := eventField s b, eaState := .awaitingVelocity })
  | .awaitingVelocity =>
    let e : NoteEvent := ⟨s.eaAction, s.eaChannel, s.eaKey, eventField s b⟩
    (some e, { s.emit (.event e) with eaState := .awaitingAction })

/-- The client gives the assembler one byte and gets its result. -/
def assembleStep (b : Byte) (s : State) : Out :=
  let (e, s') := assemble b s
  .next (s'.respond .client (.optEvent e))

/-- `EA.BYTE b` (R206). -/
def execEaByte (b : Byte) (s : State) : Out := assembleStep b s

/-- `EVT.NOTEON` (R99, R207, R209, R210): the three bytes in time order. -/
def execEvtNoteon (h : Nibble) (k v : Byte) (s : State) : Out :=
  forEach assembleStep [actionByte 9#4 h, k, v] s

/-- `EVT.NOTEOFF` (R99, R207, R209, R210). -/
def execEvtNoteoff (h : Nibble) (k v : Byte) (s : State) : Out :=
  forEach assembleStep [actionByte 8#4 h, k, v] s

/-- `EVT.OTHER` (R99, R207, R209, R210). In sequenced mode each byte is examined in turn (R208). -/
def execEvtOther (a h : Nibble) (k v : Byte) (s : State) : Out :=
  forEach assembleStep [actionByte a h, k, v] s

/-- `EVT.SEQDISCARD` (R208): the one byte; in sequenced mode, awaiting an action, it is discarded. -/
def execEvtSeqdiscard (a h : Nibble) (s : State) : Out := assembleStep (actionByte a h) s

end Sys2Proof.Machine
end

