-- ==== Sys2Proof/Machine/RingBuffer.lean ====
section
/-! DEFINITION. The ring buffer family (spec/40_ringbuffer.md): RB.ENQ, RB.DEQ, RB.EMPTY. Who may perform
them is the discipline of R69, checked by the step (Machine/Agents.lean). -/

namespace Sys2Proof.Machine

open Sys2Proof

/-- `RB.ENQ r, b` (R121): the result goes to the producer. -/
def execRbEnq (r : RingId) (b : Byte) (s : State) : Out :=
  match enqueue r b s with
  | .ok (ok, s') => .next (s'.respond (producer r) (.bool ok))
  | .error f => .fault f

/-- `RB.DEQ r` (R122). -/
def execRbDeq (r : RingId) (s : State) : Out :=
  match dequeue r s with
  | .ok (x, s') => .next (s'.respond .client (.optByte x))
  | .error f => .fault f

/-- `RB.EMPTY r` (R123). -/
def execRbEmpty (r : RingId) (s : State) : Out :=
  let (e, s') := testEmpty r s
  .next (s'.respond .client (.bool e))

end Sys2Proof.Machine
end

