-- ==== Sys2Proof/Machine/BusRead.lean ====
section
/-! DEFINITION. The bus read half and the packet framer (spec/42_bus_protocol_read.md): BUSR.EDGE,
BUSR.SERVICE, BUS.HASDATA, BUS.READ, PF.STEP, and the wire rows the framer decodes one byte at a time
(RDY, BUSBYTE.*; spec/30_encoding.md R103). Run as instructions, these rows give the framer their byte
with no RB.DEQ: `RB_BUS` is not read and there is no `deq` event (DESIGN CHOICE, notes/assumptions/29.md). -/

namespace Sys2Proof.Machine

open Sys2Proof

/-- A clock assertion at a reading unit (R156): a second one before the service merges. -/
def clockEdge (s : State) : State :=
  if s.irqPending then { s.drop .lostEdge with irqPending := true }
  else { s with irqPending := true }

/-- Micro-step s1 of BUSR.SERVICE: all eight lines in one sample, the pending bit cleared (R157). -/
def sampleBus (s : State) : Byte × State := (s.d, { s with irqPending := false })

/-- BUSR.SERVICE, s1 then s2; enabled while an edge is pending (R157). -/
def serviceBus (s : State) : Out :=
  if s.irqPending then
    let (v, s1) := sampleBus s
    enqueueIgnoring .bus v s1
  else .refused (.noStep .notEnabled)

/-- The framer meets one byte taken out of `RB_BUS`: the decode map of R103 (R161 to R165). -/
def frameByte (v : Byte) (s : State) : Option (Byte × Byte) × State :=
  match s.pfState with
  | .waitReady =>
    if v = s.cfg.readyByte then (none, { s with pfState := .idle })
    else (none, s.drop (.preReady v))
  | .idle =>
    if v = s.cfg.startSentinel then (none, { s with pfState := .gotStart })
    else (none, s.drop (.unsync v))
  | .gotStart => (none, { s with pfF1 := v, pfState := .gotF1 })
  | .gotF1 => (some (s.pfF1, v), { s.emit (.packet s.pfF1 v) with pfState := .idle })

/-- The framer meets byte `v` and the client gets the result of PF.STEP (R161). -/
def stepFramer (v : Byte) (s : State) : Out :=
  let (p, s') := frameByte v s
  .next (s'.respond .client (.optPacket p))

/-- `BUSR.EDGE` (R156). Requested by its label it is the edge itself, whether or not `CLK` has just risen
and whatever `listens` is (DESIGN CHOICE, notes/assumptions/23.md). -/
def execBusrEdge (s : State) : Out := .next ((clockEdge s).respond .busr .nothing)

/-- `BUSR.SERVICE` (R157). -/
def execBusrService (s : State) : Out :=
  andThen (serviceBus s) fun s' => .next (s'.respond .busr .nothing)

/-- `BUS.HASDATA` (R159): `not (RB.EMPTY RB_BUS)`. -/
def execBusHasdata (s : State) : Out :=
  let (e, s') := testEmpty .bus s
  .next (s'.respond .client (.bool !e))

/-- `BUS.READ` (R160): `RB.DEQ RB_BUS`, the empty case refused. -/
def execBusRead (s : State) : Out :=
  match dequeue .bus s with
  | .ok (some v, s') => .next (s'.respond .client (.byte v))
  | .ok (none, _) => .refused .readEmpty
  | .error f => .fault f

/-- `PF.STEP` (R161): at most one byte from `RB_BUS`, then the decode map. -/
def execPfStep (s : State) : Out :=
  match dequeue .bus s with
  | .ok (some v, s') => stepFramer v s'
  | .ok (none, s') => .next (s'.respond .client (.optPacket none))
  | .error f => .fault f

/-- `RDY`: the ready byte met by the framer; it is recognised in `WAIT_READY` only (R97, R162). No byte is
taken from `RB_BUS` (DESIGN CHOICE, notes/assumptions/29.md). -/
def execRdy (s : State) : Out := stepFramer s.cfg.readyByte s

/-- `BUSBYTE.PRE_READY` (R162): a byte met by the framer; in `WAIT_READY` it is discarded. No byte
is taken from `RB_BUS` (DESIGN CHOICE, notes/assumptions/29.md). -/
def execBusbytePreReady (b : Byte) (s : State) : Out := stepFramer b s

/-- `BUSBYTE.START` (R163): the start sentinel met by the framer. No byte is taken from
`RB_BUS` (DESIGN CHOICE, notes/assumptions/29.md). -/
def execBusbyteStart (s : State) : Out := stepFramer s.cfg.startSentinel s

/-- `BUSBYTE.UNSYNC` (R163): a byte met by the framer; in `IDLE` it is discarded. No byte is taken
from `RB_BUS` (DESIGN CHOICE, notes/assumptions/29.md). -/
def execBusbyteUnsync (b : Byte) (s : State) : Out := stepFramer b s

/-- `BUSBYTE.FIELD1` (R164): a byte met by the framer; in `GOT_START` it is field 1. No byte is
taken from `RB_BUS` (DESIGN CHOICE, notes/assumptions/29.md). -/
def execBusbyteField1 (b : Byte) (s : State) : Out := stepFramer b s

/-- `BUSBYTE.FIELD2` (R165): a byte met by the framer; in `GOT_F1` it completes a packet. No
byte is taken from `RB_BUS` (DESIGN CHOICE, notes/assumptions/29.md). -/
def execBusbyteField2 (b : Byte) (s : State) : Out := stepFramer b s

end Sys2Proof.Machine
end

