-- ==== Sys2Proof/Machine/BusWrite.lean ====
section
/-! DEFINITION. The bus write half (spec/41_bus_protocol_write.md): BUS.WRITE with its micro-steps
BUSW.DRIVE, BUSW.ASSERT and BUSW.DEASSERT, the pseudo-operations BUS.SENDPKT and BUS.SENDREADY, and the
row BYTE, one transfer by a remote writer (spec/30_encoding.md R91). -/

namespace Sys2Proof.Machine

open Sys2Proof

/-- Every reading unit meets the clock assertion; this unit does if its detector is wired to the bus
(R143, R155). -/
def edgeIfListening (s : State) : State := if s.cfg.listens then clockEdge s else s

/-- BUSW.DRIVE (R142), after the gap of at least `T_GAP` since the last write (R141). The unit that
drives first is the one writer (D11). A second writer and a change of `D` while `CLK = 1` break R321; a
drive inside a write in progress is a second client operation (R69, R141). -/
def drive (b : Byte) (s : State) : Out :=
  if s.busDriver = .remote ∨ s.clk = true then .refused .secondWriter
  else if s.buswPhase = .idle then
    .next { s.waitBus s.cfg.tGap with d := b, buswPhase := .driven, busDriver := .this }
  else .refused .spscViolation

/-- BUSW.ASSERT (R143), at least `T_SETUP` after the drive. -/
def assertClock (s : State) : Out :=
  if s.buswPhase = .driven then
    .next (edgeIfListening
      (State.emit { s.waitBus s.cfg.tSetup with clk := true, buswPhase := .asserted } (.busByte s.d)))
  else .refused (.noStep .notEnabled)

/-- BUSW.DEASSERT (R144), at least `T_HOLD` after the assert; `D` keeps its value. -/
def deassertClock (s : State) : Out :=
  if s.buswPhase = .asserted then
    .next { s.waitBus s.cfg.tHold with clk := false, buswPhase := .idle }
  else .refused (.noStep .notEnabled)

/-- While the clock is held this unit's own BUSR, if it listens, ends the service it may be in and
then services the edge: `T_HOLD` exceeds the latest sample (R145, R146, R313;
notes/assumptions/5.md). -/
def serviceInHold (s : State) : Out :=
  if s.cfg.listens then andThen (completeEnq .bus s) execBusrService else .next s

/-- BUS.WRITE: the three micro-steps in order, the reader serviced in the hold (R141, R146). -/
def writeBus (b : Byte) (s : State) : Out :=
  andThen (drive b s) fun s1 =>
  andThen (assertClock s1) fun s2 =>
  andThen (serviceInHold s2) deassertClock

/-- The remote writer drives `D`; two writers are refused, and so is a change of `D` while `CLK = 1`
(R13, D11, R321). Nothing else of R141 binds it: it may drive again with no assertion between, and
after any time (DESIGN CHOICE, notes/assumptions/27.md). -/
def remoteDrive (b : Byte) (s : State) : Out :=
  if s.busDriver = .this ∨ s.clk = true then .refused .secondWriter
  else .next { s with d := b, busDriver := .remote }

/-- The remote writer drives `CLK`: a 0-to-1 transition is an edge at a listening unit (R21, R156). The
event `bus_byte` is the writing unit's (R14, R143): this unit's trace holds none
(DESIGN CHOICE, notes/assumptions/26.md). The remote writer is free (R13): it may raise `CLK` with no drive
before and keep no wait of R141 (DESIGN CHOICE, notes/assumptions/27.md). -/
def remoteClock (l : Bool) (s : State) : Out :=
  if s.busDriver = .this then .refused .secondWriter
  else
    let s1 : State := { s with clk := l, busDriver := .remote }
    .next (if l && !s.clk then edgeIfListening s1 else s1)

/-- `BUS.WRITE b` (R141). -/
def execBusWrite (b : Byte) (s : State) : Out :=
  andThen (writeBus b s) fun s' => .next (s'.respond .client .nothing)

/-- `BUSW.DRIVE b` (R142). -/
def execBuswDrive (b : Byte) (s : State) : Out :=
  andThen (drive b s) fun s' => .next (s'.respond .client .nothing)

/-- `BUSW.ASSERT` (R143). -/
def execBuswAssert (s : State) : Out :=
  andThen (assertClock s) fun s' => .next (s'.respond .client .nothing)

/-- `BUSW.DEASSERT` (R144). -/
def execBuswDeassert (s : State) : Out :=
  andThen (deassertClock s) fun s' => .next (s'.respond .client .nothing)

/-- `BUS.SENDPKT f1, f2` (R147): `START_SENTINEL`, `f1`, `f2` in that order. -/
def execBusSendpkt (f1 f2 : Byte) (s : State) : Out :=
  andThen (forEach writeBus [s.cfg.startSentinel, f1, f2] s) fun s' =>
    .next (s'.respond .client .nothing)

/-- `BUS.SENDREADY` (R148): one BUS.WRITE of `READY_BYTE`. -/
def execBusSendready (s : State) : Out :=
  andThen (writeBus s.cfg.readyByte s) fun s' => .next (s'.respond .client .nothing)

/-- `BYTE b` (R91, R146): one whole transfer by the remote writer. It needs the clock deasserted. No
`bus_byte` is observed here (DESIGN CHOICE, notes/assumptions/26.md). -/
def execByte (b : Byte) (s : State) : Out :=
  if s.busDriver = .this ∨ s.clk = true then .refused .secondWriter
  else
    andThen (remoteDrive b s) fun s1 =>
    andThen (remoteClock true s1) fun s2 =>
    andThen (serviceInHold s2) (remoteClock false)

end Sys2Proof.Machine
end

