-- ==== Sys2Proof/Machine/Scheduler.lean ====
section
/-! DEFINITION. The step scheduler (spec/46_step_scheduler.md): SS.PACKET, SS.CHECK, SS.LOOP, and the
packet rows PKT.ON and PKT.OFF, whose three bytes pass the framer and reach SS.PACKET (R90, R166). -/

namespace Sys2Proof.Machine

open Sys2Proof

/-- Channel record `c` replaced. -/
def setChannel (c : Nat) (k : Channel) (s : State) : State := { s with ch := s.ch.set c k }

/-- SS.PACKET with field 1 not the off-sentinel and below `N_NOTES`: activation (R244). -/
def activate (c d : Nat) (s : State) : State :=
  setChannel c ⟨true, d, s.now + d⟩ s

/-- SS.PACKET (R241), its tests in order: out of range (R243), off (R242), on (R244). -/
def intake (f1 f2 : Byte) (s : State) : Out :=
  if s.cfg.nCh ≤ f2.toNat then .next (s.drop (.pktRange f1 f2))
  else if f1 = s.cfg.offSentinel then
    match s.ch[f2.toNat]? with
    | some k => .next (setChannel f2.toNat { k with active := false } s)
    | none => .fault (.noSuchChannel f2.toNat)
  else
    match s.cfg.intervalUs[f1.toNat]? with
    | none => .next (s.drop (.pktRange f1 f2))
    | some d =>
      match s.ch[f2.toNat]? with
      | some _ => .next (activate f2.toNat d s)
      | none => .fault (.noSuchChannel f2.toNat)

/-- One step pulse on channel `c` at time `t`: the line is raised and lowered again (R245, R247). -/
def pulse (c t : Nat) (s : State) : State :=
  let s1 : State := { s with stepPin := s.stepPin.set c true }
  State.emit { s1 with stepPin := s1.stepPin.set c false } (.pulse c t)

/-- SS.CHECK (R245): at most one pulse, strictly after the deadline; the deadline advances by the
interval. -/
def check (c : Nat) (s : State) : Out :=
  match s.ch[c]? with
  | none => .fault (.noSuchChannel c)
  | some k =>
    if k.active = true ∧ k.deadline < s.now then
      .next (setChannel c { k with deadline := k.deadline + k.interval } (pulse c s.now s))
    else .next s

/-- Whether SS.CHECK reads the time for channel `c`: an inactive one is skipped (R245). -/
def readsTime (c : Nat) (s : State) : Bool :=
  match s.ch[c]? with
  | some k => k.active
  | none => false

/-- The checks of one pass over `cs`. `again` says the pass has read the time before: the environment's
time may have grown since (R246, R41). -/
def checkAll : List Nat → Bool → State → Out
  | [], _, s => .next s
  | c :: cs, again, s =>
    if readsTime c s then
      andThen (check c (if again then s.passDelay else s)) (checkAll cs true)
    else andThen (check c s) (checkAll cs again)

/-- `SS.PACKET f1, f2` (R241). -/
def execSsPacket (f1 f2 : Byte) (s : State) : Out :=
  andThen (intake f1 f2 s) fun s' => .next (s'.respond .client .nothing)

/-- `SS.CHECK c` (R245), `c < N_CH` by the type of the request (R61). -/
def execSsCheck (c : Byte) (s : State) : Out :=
  if c.toNat < s.cfg.nCh then
    andThen (check c.toNat s) fun s' => .next (s'.respond .client .nothing)
  else .refused (.noStep .noSuchOperand)

/-- `SS.LOOP` (R246): the checks of channels 0 to `N_CH - 1` in ascending order. -/
def execSsLoop (s : State) : Out :=
  andThen (checkAll (List.range s.cfg.nCh) false s) fun s' => .next (s'.respond .client .nothing)

/-- The client's usual step on one framed byte (`PF.STEP+`, R166): a completed packet goes to SS.PACKET.
The byte is given, not taken from `RB_BUS` (DESIGN CHOICE, notes/assumptions/29.md). -/
def frameAndIntake (v : Byte) (s : State) : Out :=
  match frameByte v s with
  | (some (f1, f2), s') => intake f1 f2 s'
  | (none, s') => .next s'

/-- `PKT.ON n, c` (R94, R244): its three bytes pass the framer; recognised when `pf_state = IDLE`. `RB_BUS`
is not read (DESIGN CHOICE, notes/assumptions/29.md). -/
def execPktOn (n c : Byte) (s : State) : Out :=
  andThen (forEach frameAndIntake [s.cfg.startSentinel, n, c] s) fun s' =>
    .next (s'.respond .client .nothing)

/-- `PKT.OFF c` (R94, R242): its three bytes pass the framer; recognised when `pf_state = IDLE`. `RB_BUS` is
not read (DESIGN CHOICE, notes/assumptions/29.md). -/
def execPktOff (c : Byte) (s : State) : Out :=
  andThen (forEach frameAndIntake [s.cfg.startSentinel, s.cfg.offSentinel, c] s) fun s' =>
    .next (s'.respond .client .nothing)

end Sys2Proof.Machine
end

