-- ==== Sys2Proof/Machine/Serial.lean ====
section
/-! DEFINITION. The serial bit decoder (spec/43_serial_bit_decoder.md): SBD.START, SBD.SAMPLE,
SBD.FINISH, SBD.FRAME, and the rows SER.DATA and SER.KEEPALIVE, a frame presented on `RX`. -/

namespace Sys2Proof.Machine

open Sys2Proof

/-- A start edge at the present time (R186): ignored while a frame is in progress. -/
def startFrame (s : State) : State :=
  if s.sbdBusy then s else { s with sbdBusy := true, sbdT0 := s.time, sbdK := 0 }

/-- The engine waits for the instant of sample `k`, if it is still to come (R187). -/
def waitSample (k : Nat) (s : State) : State :=
  { s with time := max s.time (sampleTick s.cfg s.sbdT0 k) }

/-- Sample `k`: the level of `RX` at its exact instant (R187). -/
def takeSample (k : Fin 10) (s : State) : State :=
  let s1 := waitSample k.val s
  { s1 with
    sbdS := setSlot s.sbdS k.val (levelAt s.rxWave (sampleTick s.cfg s.sbdT0 k.val))
    sbdK := k.succ }

/-- The pack, the keep-alive filter, the enqueue and the re-arming (R188 to R190). -/
def finishFrame (s : State) : Out :=
  let v := packData s.sbdS
  if v = s.cfg.keepaliveByte then .next (endHandler .ser (s.drop (.keepalive v)))
  else andThen (enqueueIgnoring .ser v s) fun s' => .next (endHandler .ser s')

/-- The frame's ten levels in the sample registers: SBD.START and SBD.SAMPLE 0 to 9 (R192). The
levels are given, so no fall of `RX` is asked for, and the pin and its history stay as they were, whatever
the stop level (DESIGN CHOICE, notes/assumptions/19.md). -/
def loadFrame (w : Slots) (s : State) : State :=
  { startFrame s with sbdS := w, sbdK := 10 }

/-- SBD.FRAME: the whole frame as one step; precondition `sbd_busy = 0` (R192); else the handler
would be re-entered (R69). It asks for no edge of `RX` and moves no pin (DESIGN CHOICE,
notes/assumptions/19.md). -/
def wholeFrame (w : Slots) (s : State) : Out :=
  if s.sbdBusy then .refused .spscViolation else finishFrame (loadFrame w s)

/-- `SBD.START` (R186). Requested by its label it is the edge itself, whether or not `RX` has just fallen;
the line and its history stay as they are (DESIGN CHOICE, notes/assumptions/23.md). -/
def execSbdStart (s : State) : Out := .next ((startFrame s).respond .sbd .nothing)

/-- `SBD.SAMPLE k` (R187), enabled when `sbd_busy = 1` and `sbd_k = k`. -/
def execSbdSample (k : Fin 10) (s : State) : Out :=
  if s.sbdBusy = true ∧ s.sbdK = k.castSucc then .next ((takeSample k s).respond .sbd .nothing)
  else .refused (.noStep .notEnabled)

/-- `SBD.FINISH` (R188), enabled when `sbd_busy = 1` and `sbd_k = 10`. -/
def execSbdFinish (s : State) : Out :=
  if s.sbdBusy = true ∧ s.sbdK = 10 then
    andThen (finishFrame s) fun s' => .next (s'.respond .sbd .nothing)
  else .refused (.noStep .notEnabled)

/-- `SBD.FRAME s0..s9` (R192). -/
def execSbdFrame (w : Slots) (s : State) : Out :=
  andThen (wholeFrame w s) fun s' => .next (s'.respond .sbd .nothing)

/-- `SER.DATA` (R92, R192): the environment presents a frame; the decoder takes its ten levels. -/
def execSerData (w : Slots) (s : State) : Out := wholeFrame w s

/-- `SER.KEEPALIVE` (R190): a frame that carries `KEEPALIVE_BYTE`, with any start and stop level. -/
def execSerKeepalive (start stop : Bool) (s : State) : Out :=
  wholeFrame (frameSlots start s.cfg.keepaliveByte stop) s

end Sys2Proof.Machine
end

