-- ==== Sys2Proof/Machine/Dispatch.lean ====
section
/-! DEFINITION. One arm per constructor of Instr, each one direct call of its meaning. -/

namespace Sys2Proof.Machine

open Sys2Proof

def exec (i : Instr) (s : State) : Host.Outcome State Fault Refusal :=
  match i with
  | .rbEnq r b => Sys2Proof.Machine.execRbEnq r b s
  | .rbDeq r => Sys2Proof.Machine.execRbDeq r s
  | .rbEmpty r => Sys2Proof.Machine.execRbEmpty r s
  | .busWrite b => Sys2Proof.Machine.execBusWrite b s
  | .buswDrive b => Sys2Proof.Machine.execBuswDrive b s
  | .buswAssert => Sys2Proof.Machine.execBuswAssert s
  | .buswDeassert => Sys2Proof.Machine.execBuswDeassert s
  | .busSendpkt f1 f2 => Sys2Proof.Machine.execBusSendpkt f1 f2 s
  | .busSendready => Sys2Proof.Machine.execBusSendready s
  | .busrEdge => Sys2Proof.Machine.execBusrEdge s
  | .busrService => Sys2Proof.Machine.execBusrService s
  | .busHasdata => Sys2Proof.Machine.execBusHasdata s
  | .busRead => Sys2Proof.Machine.execBusRead s
  | .pfStep => Sys2Proof.Machine.execPfStep s
  | .sbdStart => Sys2Proof.Machine.execSbdStart s
  | .sbdSample k => Sys2Proof.Machine.execSbdSample k s
  | .sbdFinish => Sys2Proof.Machine.execSbdFinish s
  | .sbdFrame slots => Sys2Proof.Machine.execSbdFrame slots s
  | .eaByte b => Sys2Proof.Machine.execEaByte b s
  | .vaEvent e => Sys2Proof.Machine.execVaEvent e s
  | .ssPacket f1 f2 => Sys2Proof.Machine.execSsPacket f1 f2 s
  | .ssCheck c => Sys2Proof.Machine.execSsCheck c s
  | .ssLoop => Sys2Proof.Machine.execSsLoop s
  | .byte b => Sys2Proof.Machine.execByte b s
  | .serData slots => Sys2Proof.Machine.execSerData slots s
  | .serKeepalive start stop => Sys2Proof.Machine.execSerKeepalive start stop s
  | .pktOn n c => Sys2Proof.Machine.execPktOn n c s
  | .pktOff c => Sys2Proof.Machine.execPktOff c s
  | .rdy => Sys2Proof.Machine.execRdy s
  | .busbytePreReady b => Sys2Proof.Machine.execBusbytePreReady b s
  | .busbyteStart => Sys2Proof.Machine.execBusbyteStart s
  | .busbyteUnsync b => Sys2Proof.Machine.execBusbyteUnsync b s
  | .busbyteField1 b => Sys2Proof.Machine.execBusbyteField1 b s
  | .busbyteField2 b => Sys2Proof.Machine.execBusbyteField2 b s
  | .evtNoteon h k v => Sys2Proof.Machine.execEvtNoteon h k v s
  | .evtNoteoff h k v => Sys2Proof.Machine.execEvtNoteoff h k v s
  | .evtOther a h k v => Sys2Proof.Machine.execEvtOther a h k v s
  | .evtSeqdiscard a h => Sys2Proof.Machine.execEvtSeqdiscard a h s

end Sys2Proof.Machine
end

