-- ==== Sys2Proof/Machine/Agents.lean ====
section
/-! DEFINITION. The agents of spec/00_scope.md R13: which agent performs which operation (R104 column
`agent`, spec/60_exceptions.md R278), the discipline of spec/20_memory.md R69, operations begun and
carried on at micro-step grain (R12), and what the environment does to the inputs. -/

namespace Sys2Proof.Machine

open Sys2Proof

/-- The agent that performs an operation (R104), or that meets a wire unit: a transfer on the pins and
a frame on `RX` are presented by the environment, the framer's and assembler's units are met by the
client's operations. -/
def performer : Instr → Agent
  | .rbEnq r _ => producer r
  | .rbDeq _ => .client
  | .rbEmpty _ => .client
  | .busWrite _ => .client
  | .buswDrive _ => .client
  | .buswAssert => .client
  | .buswDeassert => .client
  | .busSendpkt _ _ => .client
  | .busSendready => .client
  | .busrEdge => .busr
  | .busrService => .busr
  | .busHasdata => .client
  | .busRead => .client
  | .pfStep => .client
  | .sbdStart => .sbd
  | .sbdSample _ => .sbd
  | .sbdFinish => .sbd
  | .sbdFrame _ => .sbd
  | .eaByte _ => .client
  | .vaEvent _ => .client
  | .ssPacket _ _ => .client
  | .ssCheck _ => .client
  | .ssLoop => .client
  | .byte _ => .env
  | .serData _ => .env
  | .serKeepalive _ _ => .env
  | .pktOn _ _ => .client
  | .pktOff _ => .client
  | .rdy => .client
  | .busbytePreReady _ => .client
  | .busbyteStart => .client
  | .busbyteUnsync _ => .client
  | .busbyteField1 _ => .client
  | .busbyteField2 _ => .client
  | .evtNoteon _ _ _ => .client
  | .evtNoteoff _ _ _ => .client
  | .evtOther _ _ _ _ => .client
  | .evtSeqdiscard _ _ => .client

/-- The micro-steps of a BUS.WRITE: what the client may do while one is in progress (R141, R147). -/
def isBusStep (i : Instr) : Bool :=
  match i with
  | .buswDrive _ => true
  | .buswAssert => true
  | .buswDeassert => true
  | _ => false

/-- The serial frame presented as a whole: it needs the engine between operations (R192). -/
def isWholeFrame (i : Instr) : Bool :=
  match i with
  | .serData _ => true
  | .serKeepalive _ _ => true
  | _ => false

/-- An edge is an event, not an operation: it may fall inside an operation in progress (R274, R275). -/
def isEdge (i : Instr) : Bool :=
  match i with
  | .busrEdge => true
  | .sbdStart => true
  | _ => false

/-- RB.ENQ by SBD, requested by itself and not inside its handler. -/
def isOwnEnqueue (i : Instr) : Bool :=
  match i with
  | .rbEnq .ser _ => true
  | _ => false

/-- RB.ENQ on `RB_BUS` requested by itself: BUSR enqueues inside BUSR.SERVICE and performs no other
operation (R158, R278). -/
def isDirectBusEnqueue (i : Instr) : Bool :=
  match i with
  | .rbEnq .bus _ => true
  | _ => false

/-- A consumer's ring buffer operation requested by itself on `RB_BUS`. -/
def isDirectBusRead (i : Instr) : Bool :=
  match i with
  | .rbDeq .bus => true
  | .rbEmpty .bus => true
  | _ => false

/-- Whether agent `a` is still inside an earlier operation (R69: one side runs an operation to
completion before its next begins; R141: the client is occupied during a BUS.WRITE; R187: between its
samples SBD does nothing else). A start edge that falls inside SBD's own RB.ENQ begins the frame, whose
samples wait for the enqueue to end (DESIGN CHOICE, notes/assumptions/28.md). -/
def isBusy (a : Agent) (i : Instr) (s : State) : Bool :=
  match a with
  | .client => s.clientOp.isSome || (s.buswPhase != .idle && !isBusStep i)
  | .busr => s.busrOp.isSome && !isEdge i
  | .sbd => (s.sbdOp.isSome && !isEdge i) || (s.sbdBusy && isOwnEnqueue i)
  | .env => isWholeFrame i && s.sbdOp.isSome

/-- The discipline every request must keep: `none` where it does. An operation by an agent that is not
its own, or that its context may not perform, and one that begins inside another of its side, break R69
and R278 (R158 for BUSR); the consumer port of `RB_BUS` is not reachable by itself (R22). SBD may
perform its RB.ENQ by itself, outside its handler (R104; DESIGN CHOICE, notes/assumptions/24.md). -/
def discipline (a : Agent) (i : Instr) (s : State) : Option Refusal :=
  if performer i ≠ a then some .spscViolation
  else if isDirectBusEnqueue i then some .spscViolation
  else if isDirectBusRead i then some (.noStep .notReachable)
  else if isBusy a i s then some .spscViolation
  else none

/-! ### Micro-step grain -/

/-- An enqueue of `b` by the producer of `r` begins (R121). -/
def beginEnq (r : RingId) (b : Byte) (use : EnqUse) (s : State) : State :=
  s.setEnqOp r (some ⟨b, .m1, use⟩)

/-- A dequeue or emptiness test by the client begins (R122, R123). -/
def beginDeq (r : RingId) (use : DeqUse) (s : State) : State :=
  { s with clientOp := some ⟨r, .m1, use⟩ }

/-- The pack and the filter of SBD.FINISH; then the enqueue begins (R188, R190). -/
def beginFinish (s : State) : State :=
  let v := packData s.sbdS
  if v = s.cfg.keepaliveByte then
    (endHandler .ser (s.drop (.keepalive v))).respond .sbd .nothing
  else beginEnq .ser v .handler s

/-- An operation begun at micro-step grain. One whose rule lists no micro-steps is indivisible, and so
runs here as a whole (R12); BUS.WRITE begins with its drive (R141); the pseudo-operations are their
expansions, which the stimulus program may write out instead (R105). -/
def beginOp (i : Instr) (s : State) : Out :=
  match i with
  | .rbEnq r b => .next (beginEnq r b .plain s)
  | .rbDeq r => .next (beginDeq r .deq s)
  | .rbEmpty r => .next (beginDeq r .empty s)
  | .busHasdata => .next (beginDeq .bus .hasdata s)
  | .busRead => .next (beginDeq .bus .read s)
  | .pfStep => .next (beginDeq .bus .framer s)
  | .busrService =>
    if s.irqPending then
      let (v, s1) := sampleBus s
      .next (beginEnq .bus v .handler s1)
    else .refused (.noStep .notEnabled)
  | .sbdFinish =>
    if s.sbdBusy = true ∧ s.sbdK = 10 then .next (beginFinish s)
    else .refused (.noStep .notEnabled)
  | .sbdFrame w => if s.sbdBusy then .refused .spscViolation else .next (beginFinish (loadFrame w s))
  | .busWrite b => drive b s
  | i => exec i s

/-- The end of a dequeue with result `x`: what it was part of completes (R122, R160, R161). -/
def finishDeq (use : DeqUse) (x : Option Byte) (s : State) : Out :=
  match use, x with
  | .read, some v => .next (s.respond .client (.byte v))
  | .read, none => .refused .readEmpty
  | .framer, some v => stepFramer v s
  | .framer, none => .next (s.respond .client (.optPacket none))
  | _, x => .next (s.respond .client (.optByte x))

/-- One micro-step of the client's dequeue or test (R122, R123). -/
def deqMicro (op : DeqOp) (s : State) : Out :=
  let r := op.ring
  let done : State := { s with clientOp := none }
  match op.next with
  | .m1 => .next { s with clientOp := some { op with next := .m2 (s.ring r).head } }
  | .m2 h =>
    match op.use with
    | .empty =>
      let (t, s2) := readTail r done
      .next (s2.respond .client (.bool (h == t)))
    | .hasdata =>
      let (t, s2) := readTail r done
      .next (s2.respond .client (.bool !(h == t)))
    | _ =>
      let (t, s2) := readTail r s
      .next { s2 with clientOp := some { op with next := .m3 h t } }
  | .m3 h t =>
    if h = t then finishDeq op.use none done
    else .next { s with clientOp := some { op with next := .m4 h } }
  | .m4 h =>
    match readCell r h s with
    | .ok v => .next { s with clientOp := some { op with next := .m5 h v } }
    | .error f => .fault f
  | .m5 h v => finishDeq op.use (some v) (publishHead r h v done)

/-- The client's next micro-step: of its dequeue or test, else of its BUS.WRITE (R141). -/
def clientMicro (s : State) : Out :=
  match s.clientOp with
  | some op => deqMicro op s
  | none =>
    match s.buswPhase with
    | .driven => assertClock s
    | .asserted => andThen (deassertClock s) fun s' => .next (s'.respond .client .nothing)
    | .idle => .refused (.noStep .nothingInProgress)

/-- At most `k` micro-steps of the client's dequeue or test in progress, none where there is none. -/
def clientMicros : Nat → State → Out
  | 0, s => .next s
  | k + 1, s =>
    match s.clientOp with
    | some op => andThen (deqMicro op s) (clientMicros k)
    | none => .next s

/-- The next micro-step of agent `a` (R12). -/
def agentMicro (a : Agent) (s : State) : Out :=
  match a with
  | .client => clientMicro s
  | .busr => enqMicro .bus s
  | .sbd => enqMicro .ser s
  | .env => .refused (.noStep .nothingInProgress)

/-! ### The environment -/

/-- The environment supplies the time; it never decreases, and a decrease is the wrap of a finite
counter (R41, R322). -/
def setTime (t : Nat) (s : State) : Out :=
  if t < s.time then .refused .timeWrap else .next { s with time := t }

/-- The environment drives `RX`; a 1-to-0 transition is a start edge, also inside an RB.ENQ that SBD
performs by itself (R21, R186; notes/assumptions/28.md). -/
def driveRx (l : Bool) (s : State) : Out :=
  let s1 : State := { s with rx := l, rxWave := (s.time, l) :: s.rxWave }
  .next (if s.rx && !l then startFrame s1 else s1)

/-- The lines caught in transition: each is independently old or new (U3). -/
def mixLines (old new mask : Byte) : Byte := (old &&& ~~~mask) ||| (new &&& mask)

/-- The bus writer that performs as agent `a` drives `D`: this unit's client by BUSW.DRIVE, or the
environment as a remote writer (R142, R13). An engine may not (R278). -/
def driveBy (a : Agent) (b : Byte) (s : State) : Out :=
  match a with
  | .client =>
    match discipline .client (.buswDrive b) s with
    | some r => .refused r
    | none => execBuswDrive b s
  | .env => remoteDrive b s
  | .busr => .refused .spscViolation
  | .sbd => .refused .spscViolation

/-- The bus writer drives `D` at the instant of micro-step s1 of BUSR.SERVICE: the sample is a free mix
of the old and the new lines, and the enqueue of s2 begins (U3, R157, R313). The handler is never
re-entered (R69, R157). -/
def sampleDuringDrive (a : Agent) (b : Byte) (s : State) : Out :=
  if s.busrOp.isSome then .refused .spscViolation
  else if s.irqPending then
    let v := mixLines s.d b (Config.raceMask s.freeCtr)
    andThen (driveBy a b s) fun s' =>
      .next (beginEnq .bus v .handler (State.useFree { s' with irqPending := false }))
  else .refused (.noStep .notEnabled)

/-! ### One request -/

/-- What decoding reads of the state. -/
def State.context (s : State) : DecodeContext := ⟨s.cfg, s.pfState⟩

/-- A unit is decoded, the discipline is checked, and `run` gives the instruction its effect. -/
def fetchAnd (run : Instr → State → Out) (a : Agent) (u : WireUnit) (s : State) : Out :=
  match decode s.context u with
  | .error e => .refused (.noStep (.undecodable e))
  | .ok i =>
    match discipline a i s with
    | some r => .refused r
    | none => run i s

/-- One request of the stimulus program. -/
def perform (q : Request) (s : State) : Out :=
  match q with
  | .op a u => fetchAnd exec a u s
  | .start a u => fetchAnd beginOp a u s
  | .micro a => agentMicro a s
  | .time t => setTime t s
  | .rx l => driveRx l s
  | .driveD b => remoteDrive b s
  | .driveClk l => remoteClock l s
  | .driveDuringSample a b => sampleDuringDrive a b s

/-- The next request is taken and performed; with none left nothing happens (R28, R324: the block
never halts). -/
def advance (s : State) : Out :=
  match s.pending with
  | [] => .next s
  | q :: rest => perform q { s with pending := rest }

/-- `s` with the unit that a table row numbers `w` as the next request, performed by its agent, that
agent free, and the framer in the state in which the row is read. -/
def placeWord (s : State) (nbits w : Nat) : State :=
  let (p, u) := tableUnit s.cfg nbits w
  let s1 : State := { s with
    pfState := if u.format = .framed8 then p else s.pfState
    busrOp := none, sbdOp := none, clientOp := none }
  match decode s1.context u with
  | .ok i =>
    { s1 with
      pending := [.op (performer i) u]
      buswPhase := if isBusStep i then s.buswPhase else .idle
      sbdBusy := if isOwnEnqueue i then false else s.sbdBusy }
  | .error _ => { s1 with pending := [.op .client u] }

end Sys2Proof.Machine
end

