-- ==== Sys2Proof/Machine/Step.lean ====
section
/-! DEFINITION. One step of the machine, and the placing of an instruction where the next step meets
it. -/

namespace Sys2Proof.Machine

open Sys2Proof

/-- One step: the next entry of the stimulus program is performed (R12, R13, R110). The block fetches
no instruction and has no program counter (R28); notes/assumptions/7.md says how a program comes to
run from reset. -/
def step (s : State) : Host.Outcome State Fault Refusal := advance s

/-- The state in which the very next step runs the instruction whose bits a table row numbers `w`. -/
def State.withFetchWord (s : State) (nbits w : Nat) : State := placeWord s nbits w

end Sys2Proof.Machine
end

