-- ==== Sys2Proof/Safety.lean ====
section
/-! DEFINITION. What counts as a sound state and a safe run, in the terms the statements use: the
invariant of spec/40_ringbuffer.md R125 (1), spec/10_state.md R20 and R34 and the bus; quiescence
(spec/70_reset_and_hazards.md R324); the client's own state (spec/10_state.md R43); the framer as a fold
(spec/42_bus_protocol_read.md R167); the waveform of a serial frame (spec/43_serial_bit_decoder.md
R193); and projections of the trace. -/

namespace Sys2Proof.Machine

open Sys2Proof

/-- A ring buffer of `n` cells is sound: its memory is canonical and lists no cell outside, and its
indices are below `n` (R25, R61, R125 (1)). -/
abbrev Ring.Sound (n : Nat) (q : Ring) : Prop :=
  q.buf.wf ∧ (∀ e ∈ q.buf, e.1 < n) ∧ q.head < n ∧ q.tail < n ∧ q.seenHead < n ∧ q.seenTail < n ∧
    q.heldHead < n ∧ q.heldTail < n

/-- How far the `head` the producer last saw lies behind the present one: the views count as behind
under `STALE` only (R27). -/
def Ring.headLag (v : RbView) (n : Nat) (q : Ring) : Nat :=
  match v with
  | .immediate => 0
  | .stale => ahead n q.seenHead q.heldHead + ahead n q.heldHead q.head

/-- How far the `tail` the consumer last saw lies behind the present one. -/
def Ring.tailLag (v : RbView) (n : Nat) (q : Ring) : Nat :=
  match v with
  | .immediate => 0
  | .stale => ahead n q.seenTail q.heldTail + ahead n q.heldTail q.tail

/-- What the two sides of a ring buffer of `n` cells have seen of each other's index lies behind what
the index was at their last read, and that behind the index itself, by no more than the cells allow
(R72): no later read goes backwards, and a stale view is safe. -/
abbrev Ring.ViewSound (v : RbView) (n : Nat) (q : Ring) : Prop :=
  q.count n + q.headLag v n ≤ n - 1 ∧ q.tailLag v n ≤ q.count n

/-- Whether index `i` is where the side's view may be: anywhere under `IMMEDIATE`, where it was last
seen under `STALE`. -/
def isView (v : RbView) (i seen : Nat) : Bool :=
  match v with
  | .immediate => true
  | .stale => i == seen

/-- What an enqueue in progress holds agrees with its ring buffer of `n` cells: its own index is `tail`,
the `head` it saw lies behind the present one, and past its test there is room for one byte, whatever
the consumer has done since (R121, R125). -/
def EnqPoint.fits (v : RbView) (n : Nat) (q : Ring) : EnqPoint → Bool
  | .m1 => true
  | .m2 t => t == q.tail
  | .m3 t h => t == q.tail && decide (h < n) && decide (q.count n + ahead n h q.head ≤ n - 1) &&
      isView v h q.seenHead
  | .m4 t i => t == q.tail && i == nextIndex n q.tail && decide (q.count n + q.headLag v n + 2 ≤ n)
  | .m5 i => i == nextIndex n q.tail && decide (q.count n + q.headLag v n + 2 ≤ n)

/-- What a dequeue or test in progress holds agrees with its ring buffer of `n` cells: its own index is
`head`, the `tail` it saw lies between `head` and the present one, and past its test there is a byte,
which stays the oldest whatever the producer does (R122, R125). -/
def DeqPoint.fits (v : RbView) (n : Nat) (q : Ring) : DeqPoint → Bool
  | .m1 => true
  | .m2 h => h == q.head
  | .m3 h t => h == q.head && decide (t < n) && decide (ahead n h t ≤ q.count n) &&
      isView v t q.seenTail
  | .m4 h => h == q.head && decide (1 + q.tailLag v n ≤ q.count n)
  | .m5 h b => h == q.head && decide (1 + q.tailLag v n ≤ q.count n) && b == q.buf.read q.head

/-- The enqueue in progress in the producer of `r`, if any, agrees with the ring buffer. -/
def enqFits (r : RingId) (s : State) : Bool :=
  match s.enqOp r with
  | none => true
  | some op => op.next.fits s.cfg.rbView (slots s.cfg r) (s.ring r)

/-- The client's dequeue or test in progress, if any, agrees with its ring buffer. -/
def deqFits (s : State) : Bool :=
  match s.clientOp with
  | none => true
  | some op => op.next.fits s.cfg.rbView (slots s.cfg op.ring) (s.ring op.ring)

/-- A ring buffer and the operations in progress on it are sound (R25, R61, R72, R125). -/
abbrev State.RingSound (r : RingId) (s : State) : Prop :=
  (s.ring r).Sound (slots s.cfg r) ∧ (s.ring r).ViewSound s.cfg.rbView (slots s.cfg r) ∧
  enqFits r s = true

/-- The bus lines agree with who drives them: a write in progress is this unit's own, and while this
unit drives, `CLK` is 1 exactly between assert and deassert (R29, R141 to R144); with no writer yet
`CLK` is 0 (R301). -/
abbrev State.BusSound (s : State) : Prop :=
  (s.buswPhase ≠ .idle → s.busDriver = .this) ∧
  (s.busDriver = .this → (s.clk = true ↔ s.buswPhase = .asserted)) ∧
  (s.busDriver = .nobody → s.clk = false)

/-- The invariant every step keeps: the shape of the state that R20 gives, and what R72 and R125 say of
the ring buffers at every micro-step. -/
abbrev State.Inv (s : State) : Prop :=
  s.RingSound .bus ∧
  s.RingSound .ser ∧
  deqFits s = true ∧
  s.ch.length = s.cfg.nCh ∧
  s.stepPin = List.replicate s.cfg.nCh false ∧
  s.assignedKey.length = s.cfg.nCh ∧
  s.BusSound

/-- The elements only the client's operations may write (R20, R43): scheduler, allocator, assembler,
framer, bus write phase, the bus lines where this unit drives them, and the consumer side of both ring
buffers, with the client's own progress and response. -/
structure ClientState where
  ch : List Channel
  stepPin : List Bool
  assignedKey : List Byte
  eaState : EaState
  eaAction : Action
  eaChannel : Nibble
  eaKey : Byte
  pfState : PfState
  pfF1 : Byte
  busHead : Nat
  serHead : Nat
  busSeenTail : Nat
  serSeenTail : Nat
  busHeldTail : Nat
  serHeldTail : Nat
  buswPhase : BuswPhase
  /-- `D` and `CLK` while this unit is the bus writer. -/
  ownLines : Option (Byte × Bool)
  clientOp : Option DeqOp
  clientResp : Response
deriving DecidableEq, Repr

/-- The client's part of a state. -/
def State.clientState (s : State) : ClientState where
  ch := s.ch
  stepPin := s.stepPin
  assignedKey := s.assignedKey
  eaState := s.eaState
  eaAction := s.eaAction
  eaChannel := s.eaChannel
  eaKey := s.eaKey
  pfState := s.pfState
  pfF1 := s.pfF1
  busHead := s.rbBus.head
  serHead := s.rbSer.head
  busSeenTail := s.rbBus.seenTail
  serSeenTail := s.rbSer.seenTail
  busHeldTail := s.rbBus.heldTail
  serHeldTail := s.rbSer.heldTail
  buswPhase := s.buswPhase
  ownLines := if s.busDriver = .this then some (s.d, s.clk) else none
  clientOp := s.clientOp
  clientResp := s.clientResp

/-- Whether a request is one of the client's. -/
def Request.isClients : Request → Bool
  | .op a _ => a == .client
  | .start a _ => a == .client
  | .micro a => a == .client
  | .time _ => false
  | .rx _ => false
  | .driveD _ => false
  | .driveClk _ => false
  | .driveDuringSample a _ => a == .client

/-- A unit that brings a bus byte or a serial frame from outside, in mode `m`: a transfer or frame on the
pins, the bytes of a wire unit met by the framer, the labels that stand for a frame, a clock assertion or
a start edge (notes/assumptions/8.md, 23.md), and in live mode the bytes of an event, which come from
`RB_SER`. In sequenced mode those come from the sequence source and are neither (R206). -/
def isInput (m : Mode) : Instr → Bool
  | .byte _ => true
  | .serData _ => true
  | .serKeepalive _ _ => true
  | .pktOn _ _ => true
  | .pktOff _ => true
  | .rdy => true
  | .busbytePreReady _ => true
  | .busbyteStart => true
  | .busbyteUnsync _ => true
  | .busbyteField1 _ => true
  | .busbyteField2 _ => true
  | .evtNoteon _ _ _ => m == .live
  | .evtNoteoff _ _ _ => m == .live
  | .evtOther _ _ _ _ => m == .live
  | .evtSeqdiscard _ _ => m == .live
  | .busrEdge => true
  | .sbdStart => true
  | .sbdFrame _ => true
  | .rbEnq _ _ => false
  | .rbDeq _ => false
  | .rbEmpty _ => false
  | .busWrite _ => false
  | .buswDrive _ => false
  | .buswAssert => false
  | .buswDeassert => false
  | .busSendpkt _ _ => false
  | .busSendready => false
  | .busrService => false
  | .busHasdata => false
  | .busRead => false
  | .pfStep => false
  | .sbdSample _ => false
  | .sbdFinish => false
  | .eaByte _ => false
  | .vaEvent _ => false
  | .ssPacket _ _ => false
  | .ssCheck _ => false
  | .ssLoop => false

/-- Whether a unit is read as an input. What is read as one does not depend on the framer's state. -/
def isInputUnit (x : DecodeContext) (u : WireUnit) : Bool :=
  match decode x u with
  | .ok i => isInput x.cfg.mode i
  | .error _ => false

/-- Whether a stimulus program still presents a bus byte or a serial frame, when `RX` stands at `rx` and
`CLK` at `clk` before it: a unit that brings one, a fall of `RX`, or a rise of `CLK` by the remote
writer. A level of a pin alone is none. -/
def presentsInput (x : DecodeContext) (rx clk : Bool) : List Request → Bool
  | [] => false
  | .op _ u :: rest => isInputUnit x u || presentsInput x rx clk rest
  | .start _ u :: rest => isInputUnit x u || presentsInput x rx clk rest
  | .rx l :: rest => (rx && !l) || presentsInput x l clk rest
  | .driveClk l :: rest => (l && !clk) || presentsInput x rx l rest
  | .driveD _ :: rest => presentsInput x rx clk rest
  | .driveDuringSample _ _ :: rest => presentsInput x rx clk rest
  | .micro _ :: rest => presentsInput x rx clk rest
  | .time _ :: rest => presentsInput x rx clk rest

/-- A quiescent state (R324): the environment has no further bus byte or serial frame to present. The
client's own requests may go on, so pulses need not have stopped, and bytes may have been dropped. -/
abbrev State.Quiescent (s : State) : Prop :=
  s.buswPhase = .idle ∧ s.irqPending = false ∧ s.sbdBusy = false ∧
  s.rbBus.isEmpty = true ∧ s.rbSer.isEmpty = true ∧
  (s.pfState = .idle ∨ s.pfState = .waitReady) ∧
  s.eaState = .awaitingAction ∧ presentsInput s.context s.rx s.clk s.pending = false

/-- The framer as a function of the byte stream (R167): the left fold of the decode map of R103, giving
the packets and the state reached. -/
def frameFold (c : Config) : PfState × Byte → List Byte → List (Byte × Byte) × (PfState × Byte)
  | p, [] => ([], p)
  | (.waitReady, f), v :: vs => frameFold c (if v = c.readyByte then .idle else .waitReady, f) vs
  | (.idle, f), v :: vs => frameFold c (if v = c.startSentinel then .gotStart else .idle, f) vs
  | (.gotStart, _), v :: vs => frameFold c (.gotF1, v) vs
  | (.gotF1, f), v :: vs =>
    let (ps, q) := frameFold c (.idle, f) vs
    ((f, v) :: ps, q)

/-- The result of RB.ENQ and the state after, in the words of R121: with the `head` the producer sees,
drop the newest byte or store it in cell `tail` and publish. -/
def afterEnqueue (r : RingId) (b : Byte) (s : State) : Bool × State :=
  let (h, s2) := readHead r s
  let q := s2.ring r
  let n := (q.tail + 1) % (capacity s.cfg r + 1)
  if n = h then (false, s2.drop (.rbFull r b))
  else (true, s2.setRing r { q with buf := q.buf.write q.tail b, tail := n })

/-- The result of RB.DEQ and the state after, in the words of R122: with the `tail` the consumer sees,
nothing, or the byte of cell `head` and `head` published. -/
def afterDequeue (r : RingId) (s : State) : Option Byte × State :=
  let (t, s2) := readTail r s
  let q := s2.ring r
  let v := q.buf.read q.head
  if q.head = t then (none, s2)
  else
    (some v, State.emit (s2.setRing r { q with head := (q.head + 1) % (capacity s.cfg r + 1) })
      (.deq r v))

/-- The framer's result and the state after one byte, the table of R103 row by row. -/
def afterFramed (v : Byte) (s : State) : Option (Byte × Byte) × State :=
  if s.pfState = .waitReady ∧ v = s.cfg.readyByte then (none, { s with pfState := .idle })
  else if s.pfState = .waitReady then (none, s.drop (.preReady v))
  else if s.pfState = .idle ∧ v = s.cfg.startSentinel then (none, { s with pfState := .gotStart })
  else if s.pfState = .idle then (none, s.drop (.unsync v))
  else if s.pfState = .gotStart then (none, { s with pfF1 := v, pfState := .gotF1 })
  else (some (s.pfF1, v), State.emit { s with pfState := .idle } (.packet s.pfF1 v))

/-- The bytes put on the bus, oldest first. -/
def busBytes (l : List Event) : List Byte :=
  l.filterMap fun e => match e with
    | .busByte b => some b
    | _ => none

/-- The bytes taken out of ring buffer `r`, oldest first. -/
def deqBytes (r : RingId) (l : List Event) : List Byte :=
  l.filterMap fun e => match e with
    | .deq r' v => if r' = r then some v else none
    | _ => none

/-- The packets framed, oldest first. -/
def packets (l : List Event) : List (Byte × Byte) :=
  l.filterMap fun e => match e with
    | .packet f1 f2 => some (f1, f2)
    | _ => none

/-- The pulses of one pass over the channels, in the order of the channels, when channel `c` is checked
at time `τ c` (R245, R246). -/
def passPulses (ch : List Channel) (τ : Nat → Nat) : List Event :=
  (List.range ch.length).filterMap fun c =>
    match ch[c]? with
    | some k => if k.active ∧ k.deadline < τ c then some (.pulse c (τ c)) else none
    | none => none

/-- The number of pulses on channel `c`. -/
def pulseCount (c : Nat) (l : List Event) : Nat :=
  (l.filter fun e => match e with
    | .pulse c' _ => c' == c
    | _ => false).length

/-- The changes of the line, newest first, of one well-formed frame of byte `b` sent from tick `t0`
with bit period `period`, the line idle at 1 afterwards (R92, R193). -/
def frameWave (t0 period : Nat) (b : Byte) : List (Nat × Bool) :=
  (t0 + 10 * period, true) ::
    ((List.range 10).reverse.map fun k => (t0 + k * period, slot (frameSlots false b true) k))

/-- The ten levels a waveform has at the sample instants of a frame that starts at `t0` (R187, R192). -/
def sampledSlots (c : Config) (wave : List (Nat × Bool)) (t0 : Nat) : Slots :=
  (List.range 10).foldl (fun w k => setSlot w k (levelAt wave (sampleTick c t0 k))) 0#10

/-- A list of instructions executed one after the other, stopping at the first stop. -/
def execAll : List Instr → State → Out := forEach exec

end Sys2Proof.Machine
end

