-- ==== Sys2Proof/Certificates/Slice0/Obligations.lean ====
section
/-! DEFINITION. The statements for the provers. Where a statement gives the whole next state as an
equation, the equation is the frame too: every element it does not name is unchanged. -/

open Sys2Proof Sys2Proof.Machine

/-! ### Encoding -/

/-- Every well-formed instruction is read back from the unit it is written as, in the framer state in
which its row is read (R90 to R104). -/
def Obligations.DecodeOfEncode : Prop :=
  ∀ (c : Config) (p : PfState) (i : Instr), i.wf c = true → i.inContext p = true →
    decode ⟨c, p⟩ (encode c i) = .ok i

/-- No two units are read as the same instruction, but for the ready byte met by the framer: a unit that
decodes is the one its instruction is written as. (In `WAIT_READY` a ready byte is read as RDY from a
`RDY8` unit and from a byte met by the framer. It is written as the first, so the second is left out.) -/
def Obligations.EncodeOfDecode : Prop :=
  ∀ (x : DecodeContext) (u : WireUnit) (i : Instr), decode x u = .ok i →
    u.format ≠ .framed8 ∨ i ≠ .rdy → encode x.cfg i = u

/-- Whatever the decoder accepts is well-formed, and is a row of the framer state it was read in. -/
def Obligations.DecodedIsWellFormed : Prop :=
  ∀ (x : DecodeContext) (u : WireUnit) (i : Instr), decode x u = .ok i →
    i.wf x.cfg = true ∧ i.inContext x.pf = true

/-- Words written out from the spec's encodings decode to what they stand for: the source's three bytes
0x92 0x3C 0x40 as an event (R99, R100), byte 0x92 as a serial frame 0 0100 1001 1 (R189), PKT.ON 39, 2
and PKT.OFF 2 (R94, R147), the op ids of BUS.READ and SS.LOOP (R104), and op id 0x63, which names no
operation. -/
def Obligations.WordsFromTheEncodingDecode : Prop :=
  decodeTableWord 24 0x923C40 = some (.evtNoteon 2#4 0x3C#8 0x40#8) ∧
  decodeTableWord 16 0b0010010011 = some (.serData 0b0010010011#10) ∧
  decodeTableWord 24 0xFF2702 = some (.pktOn 39#8 2#8) ∧
  decodeTableWord 24 0xFF8002 = some (.pktOff 2#8) ∧
  decodeTableWord 8 0x23 = some .busRead ∧
  decodeTableWord 8 0x62 = some .ssLoop ∧
  decode ⟨cfgRef, .idle⟩ (labelUnit 0x63#8 0#8 0#8 0#8 0#8) = .error (.unknownOpId 0x63#8)

/-! ### The step -/

/-- When the next request is a whole operation that decodes to `i` and keeps the discipline, the step is
`exec i` with the request taken off the program. -/
def Obligations.StepRunsDecodedInstruction : Prop :=
  ∀ (s : State) (a : Agent) (u : WireUnit) (rest : List Request) (i : Instr),
    s.pending = .op a u :: rest → decode s.context u = .ok i →
    discipline a i { s with pending := rest } = none →
    step s = exec i { s with pending := rest }

/-- An operation requested by an agent that is not its own, whole or at micro-step grain, is refused (R69,
R278), and so is one begun inside another of the same agent (R69): by the client inside a ring buffer
operation, or inside a BUS.WRITE but for its micro-steps (R141), by BUSR inside a service, by SBD inside an
enqueue, SBD.SAMPLE too (notes/assumptions/28.md), or RB.ENQ inside a frame (R187), and a frame met inside
SBD's enqueue. So is RB.ENQ on `RB_BUS` by itself, which BUSR performs inside BUSR.SERVICE only (R158). RB.DEQ and RB.EMPTY on
`RB_BUS` are not reachable by the client by themselves (R22). That R268's SpscViolation is the reason for
every breach of R278 and R158, and the name of the last stop, are the model's choice
(notes/assumptions/13.md). -/
def Obligations.ForeignRingOperationIsRefused : Prop :=
  ∀ (s : State) (q : Request) (a : Agent) (u : WireUnit) (rest : List Request) (b : Byte)
    (w : Slots) (k : Fin 10) (start stop : Bool) (i : Instr),
    q = .op a u ∨ q = .start a u → s.pending = q :: rest → decode s.context u = .ok i →
    ((∃ r, (i = .rbEnq r b ∧ a ≠ producer r) ∨ ((i = .rbDeq r ∨ i = .rbEmpty r) ∧ a ≠ .client)) →
      step s = .refused .spscViolation) ∧
    (a ≠ performer i → step s = .refused .spscViolation) ∧
    (i = .rbEnq .bus b → step s = .refused .spscViolation) ∧
    (a = .client → i = .rbDeq .bus ∨ i = .rbEmpty .bus →
      step s = .refused (.noStep .notReachable)) ∧
    (a = .client → s.clientOp ≠ none → i ≠ .rbDeq .bus → i ≠ .rbEmpty .bus →
      step s = .refused .spscViolation) ∧
    (a = .client → s.buswPhase ≠ .idle → isBusStep i = false → i ≠ .rbDeq .bus → i ≠ .rbEmpty .bus →
      step s = .refused .spscViolation) ∧
    (a = .busr → s.busrOp ≠ none → i = .busrService → step s = .refused .spscViolation) ∧
    (a = .sbd → s.sbdOp ≠ none →
      i = .rbEnq .ser b ∨ i = .sbdSample k ∨ i = .sbdFinish ∨ i = .sbdFrame w →
      step s = .refused .spscViolation) ∧
    (a = .sbd → s.sbdBusy = true → i = .rbEnq .ser b → step s = .refused .spscViolation) ∧
    (a = .env → s.sbdOp ≠ none → i = .serData w ∨ i = .serKeepalive start stop →
      step s = .refused .spscViolation)

/-- Every step keeps the invariant, from every state that has it: the shape of the state, and at every
micro-step what R72 says of the two sides' views and R125 of an operation in progress. -/
def Obligations.StepKeepsInvariant : Prop :=
  ∀ s s' : State, s.Inv → step s = .next s' → s'.Inv

/-- The state after reset has the invariant, in every configuration, at every time, with `RX` at either
level (R303). -/
def Obligations.ResetMeetsInvariant : Prop :=
  ∀ (c : Config) (t : Nat) (level : Bool), (State.resetWith c t level).Inv

/-- In a sound state with a configuration that meets R7 and R9 no step faults: no access outside a
storage space is possible (R61), and the hardware has no fault outcome (R15). -/
def Obligations.SoundStepNeverFaults : Prop :=
  ∀ (s : State) (f : Fault), s.Inv → s.cfg.Wf → step s ≠ .fault f

/-- No step changes the configuration (R38, R76, R306). -/
def Obligations.StepKeepsConfiguration : Prop :=
  ∀ s s' : State, step s = .next s' → s'.cfg = s.cfg

/-- Successive reads of the time never decrease (R41). -/
def Obligations.TimeNeverDecreases : Prop :=
  ∀ s s' : State, step s = .next s' → s.time ≤ s'.time ∧ s.now ≤ s'.now

/-- The observable events only accumulate (R14). -/
def Obligations.TraceOnlyGrows : Prop :=
  ∀ s s' : State, step s = .next s' → ∃ es, s'.trace = s.trace ++ es

/-- No step of an engine or of the environment changes what only the client may write: scheduler,
allocator, assembler, framer, bus write phase, the bus lines where this unit drives them, the consumer
side of the ring buffers (R20, R43, R276). -/
def Obligations.EnginesLeaveClientStateAlone : Prop :=
  ∀ (s s' : State) (q : Request) (rest : List Request),
    s.pending = q :: rest → q.isClients = false → step s = .next s' → s'.clientState = s.clientState

/-- The values R307 gives at reset, for every configuration, every time and either level of `RX`. -/
def Obligations.ResetHoldsTheSpecifiedValues : Prop :=
  ∀ (c : Config) (t : Nat) (level : Bool),
    let s := State.resetWith c t level
    (∀ r, (s.ring r).head = 0 ∧ (s.ring r).tail = 0 ∧ (s.ring r).seenHead = 0 ∧
      (s.ring r).seenTail = 0) ∧
    s.clk = false ∧ s.buswPhase = .idle ∧ s.irqPending = false ∧ s.pfState = .waitReady ∧
    s.sbdBusy = false ∧
    (∀ i, i < c.nCh → (∃ k, s.ch[i]? = some k ∧ k.active = false) ∧ s.stepPin[i]? = some false ∧
      s.assignedKey[i]? = some c.offSentinel) ∧
    s.eaState = .awaitingAction

/-! ### Ring buffer -/

/-- RB.ENQ (R121): with the `head` the producer sees, a full buffer drops the byte offered and answers
false; else the byte is stored in cell `tail`, `tail` moves on, and the answer is true. -/
def Obligations.EnqueueStoresOrDropsNewest : Prop :=
  ∀ (r : RingId) (b : Byte) (s : State), (s.ring r).tail < capacity s.cfg r + 1 →
    exec (.rbEnq r b) s =
      .next ((afterEnqueue r b s).2.respond (producer r) (.bool (afterEnqueue r b s).1))

/-- RB.DEQ (R122): with the `tail` the consumer sees, nothing; else the byte of cell `head`, `head`
moves on, and the event `deq` is observed. -/
def Obligations.DequeueTakesOldestOrNothing : Prop :=
  ∀ (r : RingId) (s : State), (s.ring r).head < capacity s.cfg r + 1 →
    exec (.rbDeq r) s =
      .next ((afterDequeue r s).2.respond .client (.optByte (afterDequeue r s).1))

/-- RB.EMPTY (R123) answers whether `head` is the `tail` the consumer sees, and BUS.HASDATA (R159)
answers the opposite for `RB_BUS`; nothing else changes but the view (R27). -/
def Obligations.EmptinessTestsReportTheView : Prop :=
  ∀ (r : RingId) (s : State),
    exec (.rbEmpty r) s = .next ((readTail r s).2.respond .client
      (.bool (decide ((s.ring r).head = (readTail r s).1)))) ∧
    exec .busHasdata s = .next ((readTail .bus s).2.respond .client
      (.bool (decide ((s.ring .bus).head ≠ (readTail .bus s).1))))

/-- Under `IMMEDIATE`, RB.ENQ on the abstract queue (R124): with fewer than `RB_CAP` bytes held the
byte is appended and the producer's answer is true, else nothing is stored and it is false. -/
def Obligations.EnqueueAppendsToContents : Prop :=
  ∀ (r : RingId) (b : Byte) (s : State), s.cfg.rbView = .immediate →
    (s.ring r).Sound (slots s.cfg r) →
    ∃ t, exec (.rbEnq r b) s = .next t ∧
      (if (s.ring r).count (slots s.cfg r) < capacity s.cfg r then
        (t.ring r).contents (slots s.cfg r) = (s.ring r).contents (slots s.cfg r) ++ [b] ∧
          t.trace = s.trace ∧ (if r = .bus then t.busrResp else t.sbdResp) = .bool true
      else
        t.ring r = s.ring r ∧ t.trace = s.trace ++ [.drop (.rbFull r b)] ∧
          (if r = .bus then t.busrResp else t.sbdResp) = .bool false)

/-- Under `IMMEDIATE`, RB.DEQ on the abstract queue (R124): the oldest byte is removed and returned, and
an empty queue answers none. -/
def Obligations.DequeueRemovesFirstOfContents : Prop :=
  ∀ (r : RingId) (s : State), s.cfg.rbView = .immediate → (s.ring r).Sound (slots s.cfg r) →
    ∃ t, exec (.rbDeq r) s = .next t ∧
      (match (s.ring r).contents (slots s.cfg r) with
      | [] => t.ring r = s.ring r ∧ t.clientResp = .optByte none ∧ t.trace = s.trace
      | v :: rest => (t.ring r).contents (slots s.cfg r) = rest ∧ t.clientResp = .optByte (some v) ∧
          t.trace = s.trace ++ [.deq r v])

/-- What a read of the other side's index returns (R71, R72): under `IMMEDIATE` its present value, and
nothing is noted; under `STALE` one of the values it has held at or after the previous read, which
becomes the view, the present value being noted for the next read; and never one behind the last view. -/
def Obligations.OtherIndexReadStaysWithinHeldValues : Prop :=
  ∀ (r : RingId) (s : State), (s.ring r).Sound (slots s.cfg r) →
    let n := slots s.cfg r
    let q := s.ring r
    (s.cfg.rbView = .immediate → readHead r s = (q.head, s) ∧ readTail r s = (q.tail, s)) ∧
    (s.cfg.rbView = .stale →
      (∃ k, k ≤ ahead n q.heldHead q.head ∧ (readHead r s).1 = (q.heldHead + k) % n ∧
        ahead n (readHead r s).1 q.head = ahead n q.heldHead q.head - k) ∧
      (readHead r s).2.ring r = { q with seenHead := (readHead r s).1, heldHead := q.head } ∧
      (∃ k, k ≤ ahead n q.heldTail q.tail ∧ (readTail r s).1 = (q.heldTail + k) % n ∧
        ahead n (readTail r s).1 q.tail = ahead n q.heldTail q.tail - k) ∧
      (readTail r s).2.ring r = { q with seenTail := (readTail r s).1, heldTail := q.tail } ∧
      (q.ViewSound .stale n →
        ahead n q.seenHead (readHead r s).1 + ahead n (readHead r s).1 q.head =
          ahead n q.seenHead q.head ∧
        ahead n q.seenTail (readTail r s).1 + ahead n (readTail r s).1 q.tail =
          ahead n q.seenTail q.tail))

/-- Under `STALE` the views stay sound, a full buffer is never seen with room and an empty one never
with a byte, so no stored byte is overwritten and no unwritten cell is read (R72); and a consumer that
keeps dequeuing gets a stored byte at its second RB.DEQ at the latest (R73). -/
def Obligations.StaleViewsAreSafe : Prop :=
  ∀ (r : RingId) (b : Byte) (s : State), s.cfg.rbView = .stale →
    (s.ring r).Sound (slots s.cfg r) → (s.ring r).ViewSound .stale (slots s.cfg r) →
    ∃ t u w, exec (.rbEnq r b) s = .next t ∧ exec (.rbDeq r) s = .next u ∧
      exec (.rbDeq r) u = .next w ∧
      (t.ring r).ViewSound .stale (slots s.cfg r) ∧ (u.ring r).ViewSound .stale (slots s.cfg r) ∧
      ((s.ring r).isFull (slots s.cfg r) = true →
        t.trace = s.trace ++ [.drop (.rbFull r b)] ∧ (t.ring r).buf = (s.ring r).buf) ∧
      ((s.ring r).isEmpty = true → u.clientResp = .optByte none ∧ u.trace = s.trace) ∧
      ((s.ring r).isEmpty = false →
        u.clientResp = .optByte (some ((s.ring r).buf.read (s.ring r).head)) ∨
        w.clientResp = .optByte (some ((s.ring r).buf.read (s.ring r).head)))

/-- RB.ENQ writes no cell but `tail`, and that cell is none of the bytes held: a byte that can still be
dequeued is never altered (R125 (3)); and it changes nothing of the consumer's side. -/
def Obligations.EnqueueLeavesHeldBytesAlone : Prop :=
  ∀ (r r' : RingId) (b : Byte) (s t : State), (s.ring r).Sound (slots s.cfg r) →
    exec (.rbEnq r b) s = .next t →
    (∀ i, i ≠ (s.ring r).tail → (t.ring r).buf.read i = (s.ring r).buf.read i) ∧
    (∀ k, k < (s.ring r).count (slots s.cfg r) →
      ((s.ring r).head + k) % slots s.cfg r ≠ (s.ring r).tail) ∧
    (t.ring r).head = (s.ring r).head ∧ (t.ring r).seenTail = (s.ring r).seenTail ∧
    (t.ring r).heldTail = (s.ring r).heldTail ∧
    (r' ≠ r → t.ring r' = s.ring r') ∧ t.clientState = s.clientState

/-- RB.ENQ begun and carried to its end micro-step by micro-step, nothing coming between, is RB.ENQ as
one operation (R12, R121). -/
def Obligations.EnqueueMicroStepsMakeTheOperation : Prop :=
  ∀ (r : RingId) (b : Byte) (s : State), s.enqOp r = none →
    andThen (beginOp (.rbEnq r b) s) (completeEnq r) = exec (.rbEnq r b) s

/-- The client's operations on a ring buffer begun and carried to their end micro-step by micro-step,
nothing coming between, are the whole operations (R12, R122, R123, R160, R161). -/
def Obligations.ClientMicroStepsMakeTheOperation : Prop :=
  ∀ (i : Instr) (r : RingId) (s : State), s.clientOp = none →
    i = .rbDeq r ∨ i = .rbEmpty r ∨ i = .busHasdata ∨ i = .busRead ∨ i = .pfStep →
    andThen (beginOp i s) (clientMicros 5) = exec i s

/-- BUSR.SERVICE, SBD.FINISH and SBD.FRAME begun and carried to their end micro-step by micro-step are
the whole operations (R12, R157, R188, R192). -/
def Obligations.EngineMicroStepsMakeTheOperation : Prop :=
  ∀ (w : Slots) (s : State),
    (s.busrOp = none → andThen (beginOp .busrService s) (completeEnq .bus) = exec .busrService s) ∧
    (s.sbdOp = none → andThen (beginOp .sbdFinish s) (completeEnq .ser) = exec .sbdFinish s ∧
      andThen (beginOp (.sbdFrame w) s) (completeEnq .ser) = exec (.sbdFrame w) s)

/-- Under `IMMEDIATE`, an enqueue that runs between any two micro-steps of a dequeue leaves what one of
the two orders of the whole operations leaves (R124, R127). -/
def Obligations.InterleavedEnqueueLinearises : Prop :=
  ∀ (r : RingId) (b : Byte) (s : State) (k : Nat), s.cfg.rbView = .immediate →
    (s.ring r).Sound (slots s.cfg r) → s.clientOp = none → s.enqOp r = none →
    let mixed := andThen (beginOp (.rbDeq r) s) fun s1 => andThen (clientMicros k s1) fun s2 =>
      andThen (exec (.rbEnq r b) s2) (clientMicros 5)
    mixed = execAll [.rbEnq r b, .rbDeq r] s ∨ mixed = execAll [.rbDeq r, .rbEnq r b] s

/-! ### Bus, write half -/

/-- BUSW.DRIVE (R142): the eight lines take the byte in one micro-step, after at least `T_GAP` since the
writer's last micro-step (R141); no edge, no event. How long the wait is, and which unit is the writer,
are the model's inputs (notes/assumptions/12.md, 16.md). -/
def Obligations.DriveSetsTheLines : Prop :=
  ∀ (b : Byte) (s : State), s.buswPhase = .idle → s.clk = false → s.busDriver ≠ .remote →
    ∃ τ, s.time ≤ τ ∧ (∀ m, s.busMark = some m → m + s.cfg.tGap * s.cfg.ticksPerUs ≤ τ) ∧
      exec (.buswDrive b) s = .next { s with
        d := b, buswPhase := .driven, busDriver := .this, time := τ, busMark := some τ,
        delays := s.delays.tail, clientResp := .nothing }

/-- BUSW.ASSERT (R143): `CLK` rises at least `T_SETUP` after the drive (R141), the byte is observed on the
bus, `D` is unchanged, and in the same instant a reading unit has its edge, merged if one is pending.
That the micro-step itself lets the wait pass is the model's choice (notes/assumptions/12.md). -/
def Obligations.AssertRaisesTheClock : Prop :=
  ∀ s : State, s.buswPhase = .driven →
    ∃ τ, s.time ≤ τ ∧ (∀ m, s.busMark = some m → m + s.cfg.tSetup * s.cfg.ticksPerUs ≤ τ) ∧
      exec .buswAssert s = .next { s with
        clk := true, buswPhase := .asserted, time := τ, busMark := some τ, delays := s.delays.tail,
        irqPending := s.irqPending || s.cfg.listens,
        trace := s.trace ++ [.busByte s.d] ++
          (if s.irqPending && s.cfg.listens then [.drop .lostEdge] else []),
        clientResp := .nothing }

/-- BUSW.DEASSERT (R144): `CLK` falls at least `T_HOLD` after the assert, `D` keeps its value and no
reader reacts. That the micro-step itself lets the wait pass, where R144 requires it to have passed, is
the model's choice (notes/assumptions/12.md). -/
def Obligations.DeassertLowersTheClock : Prop :=
  ∀ s : State, s.buswPhase = .asserted →
    ∃ τ, s.time ≤ τ ∧ (∀ m, s.busMark = some m → m + s.cfg.tHold * s.cfg.ticksPerUs ≤ τ) ∧
      exec .buswDeassert s = .next { s with
        clk := false, buswPhase := .idle, time := τ, busMark := some τ, delays := s.delays.tail,
        clientResp := .nothing }

/-- An operation outside the condition its rule requires has no meaning. A second writer, of `D` or of
`CLK`, and a change of `D` while `CLK = 1` are refused as SecondWriter (R141, R321), a write inside a write and a frame inside a
frame as SpscViolation (R69, R141, R192); a micro-step that is not the next one (R143, R144) and a
channel that is none (R61) are no step at all. Which reason of R268 stands for the second, third and
fourth of these, and the names of the last two, are the model's choice (notes/assumptions/13.md). -/
def Obligations.OperationsOutsideTheirConditionAreRefused : Prop :=
  ∀ (b f1 f2 : Byte) (w : Slots) (l start stop : Bool) (rest : List Request) (s : State),
    (s.pending = .driveD b :: rest → s.busDriver = .this ∨ s.clk = true →
      step s = .refused .secondWriter) ∧
    (s.pending = .driveClk l :: rest → s.busDriver = .this → step s = .refused .secondWriter) ∧
    (s.busDriver = .remote ∨ s.clk = true →
      exec (.buswDrive b) s = .refused .secondWriter ∧ exec (.busWrite b) s = .refused .secondWriter ∧
      exec (.busSendpkt f1 f2) s = .refused .secondWriter ∧
      exec .busSendready s = .refused .secondWriter) ∧
    (s.busDriver = .this ∨ s.clk = true → exec (.byte b) s = .refused .secondWriter) ∧
    (s.busDriver ≠ .remote → s.clk = false → s.buswPhase ≠ .idle →
      exec (.buswDrive b) s = .refused .spscViolation ∧
      exec (.busWrite b) s = .refused .spscViolation ∧
      exec (.busSendpkt f1 f2) s = .refused .spscViolation ∧
      exec .busSendready s = .refused .spscViolation) ∧
    (s.buswPhase ≠ .driven → exec .buswAssert s = .refused (.noStep .notEnabled)) ∧
    (s.buswPhase ≠ .asserted → exec .buswDeassert s = .refused (.noStep .notEnabled)) ∧
    (s.sbdBusy = true → exec (.sbdFrame w) s = .refused .spscViolation ∧
      exec (.serData w) s = .refused .spscViolation ∧
      exec (.serKeepalive start stop) s = .refused .spscViolation) ∧
    (b.toNat ≥ s.cfg.nCh → exec (.ssCheck b) s = .refused (.noStep .noSuchOperand))

/-- BUS.WRITE, and BUS.SENDREADY with the ready byte (R141, R146, R148): the lines hold the byte, the
clock is low again, at least `T_SETUP + T_HOLD` has passed, the byte was observed once; and if this
unit reads the bus the byte has been offered to its `RB_BUS` by RB.ENQ. In every state, with an enqueue in
progress too, the write is its three micro-steps, the reader ending that enqueue and servicing the edge
in the hold: R146 under the premise R313, the model's choice (notes/assumptions/5.md). -/
def Obligations.BusWriteTransfersTheByte : Prop :=
  ∀ (i : Instr) (b : Byte) (s : State),
    i = .busWrite b ∨ (i = .busSendready ∧ b = s.cfg.readyByte) →
    (exec i s =
      andThen (exec (.buswDrive b) s) fun s1 => andThen (exec .buswAssert s1) fun s2 =>
      andThen (if s.cfg.listens then andThen (completeEnq .bus s2) (exec .busrService) else .next s2)
        (exec .buswDeassert)) ∧
    (s.buswPhase = .idle → s.clk = false → s.busDriver ≠ .remote → s.busrOp = none →
    s.rbBus.tail < slots s.cfg .bus →
    ∃ τ, s.time + (s.cfg.tSetup + s.cfg.tHold) * s.cfg.ticksPerUs ≤ τ ∧
      (let sent : State := { s with
        d := b, busDriver := .this,
        trace := s.trace ++ [.busByte b] ++
          (if s.irqPending && s.cfg.listens then [.drop .lostEdge] else []) }
      let read : State :=
        if s.cfg.listens then
          { (afterEnqueue .bus b { sent with irqPending := false }).2 with busrResp := .nothing }
        else sent
      exec i s = .next { read with
        time := τ, busMark := some τ, delays := s.delays.drop 3, clientResp := .nothing }))

/-- BUS.SENDPKT (R105, R147) is BUS.WRITE of `START_SENTINEL`, `f1` and `f2`, in every state. On an idle bus
it puts those bytes on the bus in that order and nothing else, and changes nothing of the client's state
but the lines it drives, the serial decoder or the serial ring buffer. A unit that reads the bus offers the three bytes to its `RB_BUS` in that order, each in its hold
(R146 under R313: the model's choice, notes/assumptions/5.md); one that does not, leaves it alone. -/
def Obligations.SendPacketPutsThreeBytesOnTheBus : Prop :=
  ∀ (f1 f2 : Byte) (s : State),
    exec (.busSendpkt f1 f2) s =
      execAll [.busWrite s.cfg.startSentinel, .busWrite f1, .busWrite f2] s ∧
    (s.Inv → s.buswPhase = .idle → s.clk = false → s.busDriver ≠ .remote →
    ∃ t, exec (.busSendpkt f1 f2) s = .next t ∧
      busBytes t.trace = busBytes s.trace ++ [s.cfg.startSentinel, f1, f2] ∧
      t = { s with
        d := f2, busDriver := .this, irqPending := t.irqPending, rbBus := t.rbBus, time := t.time,
        busMark := t.busMark, delays := t.delays, freeCtr := t.freeCtr, busrOp := t.busrOp,
        busrResp := t.busrResp, clientResp := .nothing, trace := t.trace } ∧
      t.clientState = { s.clientState with
        ownLines := some (f2, false), clientResp := .nothing } ∧
      (s.cfg.listens = true → s.busrOp = none →
        let offered := (afterEnqueue .bus f2 (afterEnqueue .bus f1
          (afterEnqueue .bus s.cfg.startSentinel s).2).2).2
        t.rbBus = offered.rbBus ∧ t.freeCtr = offered.freeCtr ∧ t.irqPending = false ∧
          t.busrOp = none ∧ t.busrResp = .nothing) ∧
      (s.cfg.listens = false →
        t.rbBus = s.rbBus ∧ t.freeCtr = s.freeCtr ∧ t.irqPending = s.irqPending ∧
          t.busrOp = s.busrOp ∧ t.busrResp = s.busrResp))

/-- BYTE (R91, R146): in every state, with an enqueue in progress too, it is the remote writer's drive,
rise and fall of `CLK`, a reading unit ending that enqueue and servicing the edge in the hold. So a
transfer leaves its byte on the lines and, at a unit that reads the bus, offers it to `RB_BUS` by RB.ENQ
(notes/assumptions/5.md, 8.md: the model's choices). No `bus_byte` is observed here
(notes/assumptions/26.md). -/
def Obligations.RemoteTransferOffersTheByte : Prop :=
  ∀ (b : Byte) (s : State),
    exec (.byte b) s =
      andThen (perform (.driveD b) s) (fun s1 => andThen (perform (.driveClk true) s1) fun s2 =>
      andThen (if s.cfg.listens then andThen (completeEnq .bus s2) (exec .busrService) else .next s2)
        (perform (.driveClk false))) ∧
    (s.busDriver ≠ .this → s.clk = false → s.busrOp = none → s.rbBus.tail < slots s.cfg .bus →
    exec (.byte b) s = .next
      (let sent : State := { s with d := b, busDriver := .remote }
      if s.cfg.listens then
        (afterEnqueue .bus b { sent with
          irqPending := false,
          trace := s.trace ++ (if s.irqPending then [.drop .lostEdge] else []) }).2.respond .busr
            .nothing
      else sent))

/-- The bus round trip (R169): a unit that writes the bus and reads it, its `RB_BUS` empty, returns by
BUS.READ exactly the bytes given to BUS.WRITE, in order, for every byte value. It is stated under
`IMMEDIATE`; that the reader services each edge in its hold is R146 under the premise R313, the model's
choice (notes/assumptions/5.md). -/
def Obligations.BusRoundTripReturnsEveryByte : Prop :=
  ∀ (bs : List Byte) (s : State), s.Inv → s.cfg.Wf → s.cfg.rbView = .immediate →
    s.cfg.listens = true → s.buswPhase = .idle → s.clk = false → s.busDriver ≠ .remote →
    s.busrOp = none → s.rbBus.isEmpty = true →
    ∃ t, execAll (bs.flatMap fun b => [.busWrite b, .busRead]) s = .next t ∧
      deqBytes .bus t.trace = deqBytes .bus s.trace ++ bs ∧
      busBytes t.trace = busBytes s.trace ++ bs ∧ t.rbBus.isEmpty = true

/-! ### Bus, read half and framer -/

/-- BUSR.EDGE (R156): the pending bit is set; an edge that finds it set is lost, with a drop. A remote
writer's assertion, and no other change of `CLK`, is such an edge at a unit that reads the bus. That the
operation requested by its label is an edge with no change of `CLK` is the model's choice
(notes/assumptions/23.md), and so is that no `bus_byte` is observed here (notes/assumptions/26.md). -/
def Obligations.EdgeSetsThePendingBit : Prop :=
  ∀ s : State,
    let merged := if s.irqPending then s.trace ++ [.drop .lostEdge] else s.trace
    exec .busrEdge s = .next { s with irqPending := true, busrResp := .nothing, trace := merged } ∧
    ∀ (l : Bool) (rest : List Request), s.pending = .driveClk l :: rest → s.busDriver ≠ .this →
      step s = .next
        (if l = true ∧ s.clk = false ∧ s.cfg.listens = true then { s with
          pending := rest, clk := l, busDriver := .remote, irqPending := true, trace := merged }
        else { s with pending := rest, clk := l, busDriver := .remote })

/-- BUSR.SERVICE (R157): enabled by a pending edge; it samples all eight lines, clears the pending bit
and offers the byte to `RB_BUS`, the result ignored. With no edge pending it is refused, which is the
model's choice (notes/assumptions/13.md). -/
def Obligations.ServiceSamplesAndEnqueues : Prop :=
  ∀ s : State, s.rbBus.tail < slots s.cfg .bus →
    (s.irqPending = true → exec .busrService s =
      .next ((afterEnqueue .bus s.d { s with irqPending := false }).2.respond .busr .nothing)) ∧
    (s.irqPending = false → exec .busrService s = .refused (.noStep .notEnabled))

/-- BUS.READ (R160): RB.DEQ of `RB_BUS`; an empty buffer is refused. -/
def Obligations.ReadReturnsTheOldestByteOrIsRefused : Prop :=
  ∀ s : State, s.rbBus.head < slots s.cfg .bus →
    (∀ v, (afterDequeue .bus s).1 = some v →
      exec .busRead s = .next ((afterDequeue .bus s).2.respond .client (.byte v))) ∧
    ((afterDequeue .bus s).1 = none → exec .busRead s = .refused .readEmpty)

/-- PF.STEP (R161 to R165): it takes at most one byte from `RB_BUS` and advances the framer by the
decode map; on an empty buffer it answers none and nothing else changes. -/
def Obligations.FramerStepFollowsTheDecodeMap : Prop :=
  ∀ s : State, s.rbBus.head < slots s.cfg .bus →
    exec .pfStep s = .next
      (match (afterDequeue .bus s).1 with
      | none => (afterDequeue .bus s).2.respond .client (.optPacket none)
      | some v =>
        (afterFramed v (afterDequeue .bus s).2).2.respond .client
          (.optPacket (afterFramed v (afterDequeue .bus s).2).1))

/-- The rows RDY and BUSBYTE.* (R103, R162 to R165): the framer meets their byte, and the decode map
gives the next state and the packet. That a row acts by the decode map in whatever state the framer is
in, where R103 reads it in one (notes/assumptions/8.md), and that its byte is not taken from `RB_BUS`
(notes/assumptions/29.md), are the model's choices. -/
def Obligations.FramedRowsFollowTheDecodeMap : Prop :=
  ∀ (b : Byte) (i : Instr) (s : State),
    (i = .rdy ∧ b = s.cfg.readyByte) ∨ i = .busbytePreReady b ∨
    (i = .busbyteStart ∧ b = s.cfg.startSentinel) ∨ i = .busbyteUnsync b ∨ i = .busbyteField1 b ∨
    i = .busbyteField2 b →
    exec i s = .next ((afterFramed b s).2.respond .client (.optPacket (afterFramed b s).1))

/-- The framer is the left fold of the decode map over the bytes it meets (R167): the packets observed
and the state reached depend on nothing else. -/
def Obligations.FramerIsTheFoldOfTheDecodeMap : Prop :=
  ∀ (bs : List Byte) (s : State),
    ∃ t, forEach stepFramer bs s = .next t ∧
      packets t.trace = packets s.trace ++ (frameFold s.cfg (s.pfState, s.pfF1) bs).1 ∧
      (t.pfState, t.pfF1) = (frameFold s.cfg (s.pfState, s.pfF1) bs).2 ∧
      t = { s with
        pfState := t.pfState, pfF1 := t.pfF1, trace := t.trace, clientResp := t.clientResp }

/-! ### Serial bit decoder -/

/-- SBD.START (R186): an armed decoder begins a frame at the present time; a busy one ignores the
edge. A 1-to-0 transition of `RX`, and no other change, is such an edge. That the operation requested by
its label is an edge with no change of `RX` is the model's choice (notes/assumptions/23.md). -/
def Obligations.StartEdgeBeginsAFrame : Prop :=
  ∀ s : State,
    exec .sbdStart s = .next
      (if s.sbdBusy then { s with sbdResp := .nothing }
      else { s with sbdBusy := true, sbdT0 := s.time, sbdK := 0, sbdResp := .nothing }) ∧
    ∀ (l : Bool) (rest : List Request), s.pending = .rx l :: rest →
      step s = .next
        (if s.rx = true ∧ l = false ∧ s.sbdBusy = false then { s with
          pending := rest, rx := l, rxWave := (s.time, l) :: s.rxWave,
          sbdBusy := true, sbdT0 := s.time, sbdK := 0 }
        else { s with pending := rest, rx := l, rxWave := (s.time, l) :: s.rxWave })

/-- SBD.SAMPLE k (R187): enabled when sample `k` is the next; it takes the level of `RX` at
`t0 + T_BIT/2 + k * T_BIT` exactly. That it waits for an instant still to come (notes/assumptions/18.md)
and is refused out of its turn (notes/assumptions/13.md) are the model's choices. -/
def Obligations.SampleTakesTheLevelAtItsInstant : Prop :=
  ∀ (k : Fin 10) (s : State),
    let at' := s.sbdT0 + s.cfg.halfBit + k.val * (2 * s.cfg.halfBit)
    (s.sbdBusy = true → s.sbdK.val = k.val → ∃ t, exec (.sbdSample k) s = .next t ∧
      (∀ j : Fin 10, slot t.sbdS j.val =
        if j = k then levelAt s.rxWave at' else slot s.sbdS j.val) ∧
      t = { s with
        sbdS := t.sbdS, sbdK := k.succ, time := max s.time at', sbdResp := .nothing }) ∧
    (s.sbdBusy = false ∨ s.sbdK.val ≠ k.val → exec (.sbdSample k) s = .refused (.noStep .notEnabled))

/-- SBD.FINISH (R188, R190): with the ten samples taken, the byte is dropped if it is the keep-alive
value, else offered to `RB_SER`; the decoder is armed again. That it is refused without them is the
model's choice (notes/assumptions/13.md). -/
def Obligations.FinishFiltersAndEnqueues : Prop :=
  ∀ s : State, s.rbSer.tail < slots s.cfg .ser →
    (s.sbdBusy = true → s.sbdK.val = 10 →
      exec .sbdFinish s = .next
        { (if packData s.sbdS = s.cfg.keepaliveByte then s.drop (.keepalive (packData s.sbdS))
          else (afterEnqueue .ser (packData s.sbdS) s).2) with
          sbdBusy := false, sbdResp := .nothing }) ∧
    (s.sbdBusy = false ∨ s.sbdK.val ≠ 10 → exec .sbdFinish s = .refused (.noStep .notEnabled))

/-- SBD.FRAME, SER.DATA and SER.KEEPALIVE (R190, R192, R196): an armed decoder takes the ten levels,
looks at slots 1 to 8 only, drops the keep-alive value and offers every other byte to `RB_SER`. What the
wire rows do (notes/assumptions/8.md), and that no time passes and pin `RX` does not move (19.md), are the
model's choices. -/
def Obligations.FrameRowsDecodeTenLevels : Prop :=
  ∀ (w : Slots) (start stop : Bool) (s : State), s.sbdBusy = false →
    s.rbSer.tail < slots s.cfg .ser →
    let loaded : State := { s with sbdT0 := s.time, sbdK := 10, sbdS := w }
    let decoded : State :=
      if packData w = s.cfg.keepaliveByte then loaded.drop (.keepalive (packData w))
      else (afterEnqueue .ser (packData w) loaded).2
    exec (.sbdFrame w) s = .next { decoded with sbdResp := .nothing } ∧
    exec (.serData w) s = .next decoded ∧
    exec (.serKeepalive start stop) s = .next
      (State.drop { s with
        sbdT0 := s.time, sbdK := 10, sbdS := frameSlots start s.cfg.keepaliveByte stop }
        (.keepalive s.cfg.keepaliveByte))

/-- The byte of a frame is the one its eight data slots carry, least significant bit first, whatever
the start and stop levels (R189, R196). -/
def Obligations.FrameCarriesItsByte : Prop :=
  ∀ (start stop : Bool) (b : Byte), packData (frameSlots start b stop) = b ∧
    slot (frameSlots start b stop) 0 = start ∧ slot (frameSlots start b stop) 9 = stop ∧
    ∀ k : Fin 8, slot (frameSlots start b stop) (k.val + 1) = b.getLsbD k.val

/-- SBD.START, SBD.SAMPLE 0 to 9 and SBD.FINISH in order are SBD.FRAME with the levels the line has at
the ten sample instants (R192); only the time that has passed differs. That each sample waits for its
instant is the model's choice (notes/assumptions/18.md), as is that SBD.FRAME lets no time pass
(notes/assumptions/19.md). -/
def Obligations.SampledMechanismIsTheFrame : Prop :=
  ∀ s : State, s.sbdBusy = false →
    execAll (.sbdStart :: (List.finRange 10).map Instr.sbdSample ++ [.sbdFinish]) s =
      andThen (exec (.sbdFrame (sampledSlots s.cfg s.rxWave s.time)) s) fun t =>
        .next { t with time := max s.time (sampleTick s.cfg s.time 9) }

/-- Correct reception (R193): a well-formed frame sent with a bit period within `T_BIT * 19/20` to
`T_BIT * 19/18` is sampled as its ten slots, so the decoded byte is the one sent. -/
def Obligations.FrameReceivedWithinTolerance : Prop :=
  ∀ (c : Config) (t0 period : Nat) (b : Byte),
    19 * c.bitTicks < 20 * period → 18 * period < 19 * c.bitTicks →
    sampledSlots c (frameWave t0 period b) t0 = frameSlots false b true ∧
    packData (sampledSlots c (frameWave t0 period b) t0) = b

/-! ### Event assembler -/

/-- EA.BYTE (R206 to R210): an action byte opens a frame, but in sequenced mode one with no note code is
dropped; then the key and the velocity, low seven bits or the off-sentinel for Other; the third byte
emits and returns the event. That code 0x8 is NoteOff is the spec's from general knowledge (D34,
notes/assumptions/4.md). -/
def Obligations.AssemblerTakesOneByte : Prop :=
  ∀ (b : Byte) (s : State),
    let code := b.extractLsb' 4 4
    let field := if s.eaAction = .other then s.cfg.offSentinel else b &&& 0x7F#8
    let e : NoteEvent := ⟨s.eaAction, s.eaChannel, s.eaKey, field⟩
    exec (.eaByte b) s = .next
      (match s.eaState with
      | .awaitingAction =>
        if s.cfg.mode = .sequenced ∧ code ≠ 9#4 ∧ code ≠ 8#4 then
          { s.drop (.seqFrame b) with clientResp := .optEvent none }
        else { s with
          eaAction := if code = 9#4 then .noteOn else if code = 8#4 then .noteOff else .other,
          eaChannel := b.extractLsb' 0 4, eaState := .awaitingKey, clientResp := .optEvent none }
      | .awaitingKey =>
        { s with eaKey := field, eaState := .awaitingVelocity, clientResp := .optEvent none }
      | .awaitingVelocity =>
        { s.emit (.event e) with eaState := .awaitingAction, clientResp := .optEvent (some e) })

/-- The event rows (R99, R100, R207 to R210). Awaiting an action, EVT.NOTEON and EVT.NOTEOFF emit their
event in both modes, EVT.OTHER emits an Other event with sentinel fields in live mode, and
EVT.SEQDISCARD is dropped in sequenced mode. That in any state the rows are their bytes given in turn is
the model's choice (notes/assumptions/8.md); code 0x8 is from general knowledge (notes/assumptions/4.md). -/
def Obligations.EventRowsAssemble : Prop :=
  ∀ (a h : Nibble) (k v : Byte) (s : State), a ≠ 9#4 → a ≠ 8#4 →
    (exec (.evtNoteon h k v) s = execAll [.eaByte (9#4 ++ h), .eaByte k, .eaByte v] s ∧
      exec (.evtNoteoff h k v) s = execAll [.eaByte (8#4 ++ h), .eaByte k, .eaByte v] s ∧
      exec (.evtOther a h k v) s = execAll [.eaByte (a ++ h), .eaByte k, .eaByte v] s ∧
      exec (.evtSeqdiscard a h) s = exec (.eaByte (a ++ h)) s) ∧
    (∀ i ∈ [Instr.evtNoteon h k v, .evtNoteoff h k v, .evtOther a h k v, .evtSeqdiscard a h],
      ∃ t, exec i s = .next t) ∧
    (s.eaState = .awaitingAction →
      (let e : NoteEvent := ⟨.noteOn, h, k &&& 0x7F#8, v &&& 0x7F#8⟩
      exec (.evtNoteon h k v) s = .next { s.emit (.event e) with
        eaAction := .noteOn, eaChannel := h, eaKey := k &&& 0x7F#8,
        clientResp := .optEvent (some e) }) ∧
      (let e : NoteEvent := ⟨.noteOff, h, k &&& 0x7F#8, v &&& 0x7F#8⟩
      exec (.evtNoteoff h k v) s = .next { s.emit (.event e) with
        eaAction := .noteOff, eaChannel := h, eaKey := k &&& 0x7F#8,
        clientResp := .optEvent (some e) }) ∧
      (s.cfg.mode = .live →
        let e : NoteEvent := ⟨.other, h, s.cfg.offSentinel, s.cfg.offSentinel⟩
        exec (.evtOther a h k v) s = .next { s.emit (.event e) with
          eaAction := .other, eaChannel := h, eaKey := s.cfg.offSentinel,
          clientResp := .optEvent (some e) }) ∧
      (s.cfg.mode = .sequenced →
        exec (.evtSeqdiscard a h) s =
          .next { s.drop (.seqFrame (a ++ h)) with clientResp := .optEvent none }))

/-! ### Voice allocator -/

/-- VA.EVENT, live NoteOn with velocity above 0 (R222, R224): the lowest free channel takes the key and
one packet is answered; with no channel free the event is dropped; a key outside the table that would
need a note code is refused, which is the spec's own decision (R224, D29; notes/assumptions/4.md). -/
def Obligations.LiveNoteOnTakesTheLowestFreeChannel : Prop :=
  ∀ (h : Nibble) (key vel : Byte) (s : State), s.cfg.mode = .live → vel ≠ 0#8 →
    s.assignedKey.length = s.cfg.nCh →
    let e : NoteEvent := ⟨.noteOn, h, key, vel⟩
    let inTable := s.cfg.keyOffset ≤ key.toNat ∧ key.toNat < s.cfg.keyOffset + s.cfg.nNotes
    (∀ i, s.assignedKey[i]? = some s.cfg.offSentinel →
      (∀ j, j < i → s.assignedKey[j]? ≠ some s.cfg.offSentinel) →
      (inTable → exec (.vaEvent e) s = .next { s with
        assignedKey := s.assignedKey.set i key,
        clientResp := .pairs
          [(BitVec.ofNat 8 (key.toNat - s.cfg.keyOffset), BitVec.ofNat 8 i)] }) ∧
      (¬ inTable → exec (.vaEvent e) s = .refused .keyOutOfRange)) ∧
    (s.cfg.offSentinel ∉ s.assignedKey →
      exec (.vaEvent e) s =
        .next { s.drop (.noFreeChannel e) with clientResp := .pairs [] })

/-- VA.EVENT, live NoteOff or NoteOn with velocity 0 (R223): the lowest channel that holds the key is
released; an unheld key is a no-op but for the recorded drop. -/
def Obligations.LiveNoteOffReleasesTheLowestHolder : Prop :=
  ∀ (e : NoteEvent) (s : State), s.cfg.mode = .live →
    e.action = .noteOff ∨ (e.action = .noteOn ∧ e.velocity = 0#8) →
    s.assignedKey.length = s.cfg.nCh →
    (∀ i, s.assignedKey[i]? = some e.key → (∀ j, j < i → s.assignedKey[j]? ≠ some e.key) →
      exec (.vaEvent e) s = .next { s with
        assignedKey := s.assignedKey.set i s.cfg.offSentinel,
        clientResp := .pairs [(s.cfg.offSentinel, BitVec.ofNat 8 i)] }) ∧
    (e.key ∉ s.assignedKey →
      exec (.vaEvent e) s = .next { s.drop (.noteoffUnheld e) with clientResp := .pairs [] })

/-- VA.EVENT in sequenced mode (R226, R227): every channel mapped to the event's MIDI channel, and no
other, takes the key on NoteOn and the off-sentinel on NoteOff, whatever it held; one packet each, in
ascending order. A key outside the table is refused if a channel is mapped. Velocity 0 as NoteOff, the
order of the packets, the missing comparison of keys and that refusal are the spec's own decisions (D35;
R224, D29; notes/assumptions/4.md). -/
def Obligations.SequencedEventsReachEveryMappedChannel : Prop :=
  ∀ (e : NoteEvent) (s : State), s.Inv → s.cfg.Wf → s.cfg.mode = .sequenced → e.action ≠ .other →
    let on := e.action = .noteOn ∧ e.velocity ≠ 0#8
    let mapped := s.cfg.seqMap.getD e.channel.toNat []
    let inTable := s.cfg.keyOffset ≤ e.key.toNat ∧ e.key.toNat < s.cfg.keyOffset + s.cfg.nNotes
    (on → mapped ≠ [] → ¬ inTable → exec (.vaEvent e) s = .refused .keyOutOfRange) ∧
    (¬ on ∨ mapped = [] ∨ inTable →
      let newKey := if on then e.key else s.cfg.offSentinel
      let code := if on then BitVec.ofNat 8 (e.key.toNat - s.cfg.keyOffset) else s.cfg.offSentinel
      ∃ keys : List Byte,
        exec (.vaEvent e) s = .next { s with
          assignedKey := keys,
          clientResp := .pairs (mapped.map fun m => (code, BitVec.ofNat 8 m)) } ∧
        keys.length = s.assignedKey.length ∧
        ∀ i, i < s.cfg.nCh →
          keys[i]? = if i ∈ mapped then some newKey else s.assignedKey[i]?)

/-- VA.EVENT with action Other changes nothing and answers no packet, in both modes (R225), which is the
spec's own decision (D43, notes/assumptions/4.md). -/
def Obligations.OtherEventsChangeNothing : Prop :=
  ∀ (e : NoteEvent) (s : State), e.action = .other →
    exec (.vaEvent e) s = .next { s with clientResp := .pairs [] }

/-- A NoteOn with velocity 0 changes the pool and answers exactly as a NoteOff of the same key on the
same MIDI channel does, in both modes (R229 (3)). In sequenced mode that is the spec's own decision (D35,
notes/assumptions/4.md). -/
def Obligations.VelocityZeroActsAsNoteOff : Prop :=
  ∀ (h : Nibble) (key vel : Byte) (s : State), s.Inv → s.cfg.Wf →
    ∃ t u, exec (.vaEvent ⟨.noteOn, h, key, 0#8⟩) s = .next t ∧
      exec (.vaEvent ⟨.noteOff, h, key, vel⟩) s = .next u ∧
      t.assignedKey = u.assignedKey ∧ t.clientResp = u.clientResp

/-! ### Step scheduler -/

/-- SS.PACKET (R241 to R244): out of range is dropped; the off-sentinel deactivates the channel, its
interval and deadline left; a note code activates it with the table's interval and the deadline one
interval from now. The drop is the spec's own decision (D16, notes/assumptions/4.md). -/
def Obligations.PacketSwitchesOneChannel : Prop :=
  ∀ (f1 f2 : Byte) (s : State), s.ch.length = s.cfg.nCh →
    (f2.toNat ≥ s.cfg.nCh ∨ (f1 ≠ s.cfg.offSentinel ∧ f1.toNat ≥ s.cfg.nNotes) →
      exec (.ssPacket f1 f2) s =
        .next { s.drop (.pktRange f1 f2) with clientResp := .nothing }) ∧
    (∀ k, s.ch[f2.toNat]? = some k → f1 = s.cfg.offSentinel →
      exec (.ssPacket f1 f2) s = .next { s with
        ch := s.ch.set f2.toNat { k with active := false }, clientResp := .nothing }) ∧
    (∀ d, f2.toNat < s.cfg.nCh → f1 ≠ s.cfg.offSentinel → s.cfg.intervalUs[f1.toNat]? = some d →
      exec (.ssPacket f1 f2) s = .next { s with
        ch := s.ch.set f2.toNat ⟨true, d, s.time / s.cfg.ticksPerUs + d⟩, clientResp := .nothing })

/-- SS.CHECK (R245): an active channel whose deadline is strictly before now emits one pulse and its
deadline advances by the interval; otherwise nothing happens. The step pins end as they were. -/
def Obligations.CheckPulsesStrictlyAfterTheDeadline : Prop :=
  ∀ (c : Byte) (k : Channel) (s : State), s.Inv → s.ch[c.toNat]? = some k →
    exec (.ssCheck c) s = .next
      (if k.active ∧ k.deadline < s.time / s.cfg.ticksPerUs then { s with
        ch := s.ch.set c.toNat { k with deadline := k.deadline + k.interval },
        trace := s.trace ++ [.pulse c.toNat (s.time / s.cfg.ticksPerUs)], clientResp := .nothing }
      else { s with clientResp := .nothing })

/-- SS.LOOP (R246): one SS.CHECK of every channel in ascending order, channel `c` at a time `τ c`, the
times never decreasing from the start to the end of the pass. A channel due at its time has its deadline
moved on, and its one pulse carries that time; the pulses come in the order of the channels. Nothing but
channels, trace and the passing of time changes. -/
def Obligations.LoopChecksEveryChannel : Prop :=
  ∀ s : State, s.Inv →
    ∃ (t : State) (τ : Nat → Nat), exec .ssLoop s = .next t ∧
      (∀ c, s.now ≤ τ c ∧ τ c ≤ t.now) ∧ (∀ c c', c ≤ c' → τ c ≤ τ c') ∧
      t.trace = s.trace ++ passPulses s.ch τ ∧
      (∀ c k, s.ch[c]? = some k →
        t.ch[c]? = some (if k.active ∧ k.deadline < τ c then
          { k with deadline := k.deadline + k.interval } else k) ∧
        pulseCount c t.trace = pulseCount c s.trace +
          (if k.active ∧ k.deadline < τ c then 1 else 0)) ∧
      t = { s with
        ch := t.ch, trace := t.trace, time := t.time, delays := t.delays, clientResp := .nothing }

/-- Deadlines do not drift (R248): after an activation at `t_a` with interval `D`, whatever the times of
the checks that follow, the deadline after `k` pulses is `t_a + (k + 1) * D` exactly. -/
def Obligations.DeadlinesDoNotDrift : Prop :=
  ∀ (f1 c : Byte) (d : Nat) (times : List Nat) (s : State), s.Inv → c.toNat < s.cfg.nCh →
    f1 ≠ s.cfg.offSentinel → s.cfg.intervalUs[f1.toNat]? = some d →
    ∃ a t k, exec (.ssPacket f1 c) s = .next a ∧
      forEach (fun τ u => exec (.ssCheck c) { u with time := τ }) times a = .next t ∧
      pulseCount c.toNat t.trace = pulseCount c.toNat a.trace + k ∧
      t.ch[c.toNat]? = some ⟨true, d, s.now + (k + 1) * d⟩

/-- PKT.ON and PKT.OFF (R94, R242 to R244): met in `IDLE`, the packet is observed, and its fields reach
SS.PACKET; in any framer state the three bytes are taken and nothing stops (that the rows stand for a
packet met by the receiver, notes/assumptions/8.md, and that the bytes are not taken from `RB_BUS`,
notes/assumptions/29.md, are the model's choices). -/
def Obligations.PacketRowsReachTheScheduler : Prop :=
  ∀ (n c : Byte) (s : State), s.Inv → s.cfg.Wf →
    (∃ t u, exec (.pktOn n c) s = .next t ∧ exec (.pktOff c) s = .next u) ∧
    (s.pfState = .idle →
      exec (.pktOn n c) s = exec (.ssPacket n c)
        (State.emit { s with pfF1 := n } (.packet n c)) ∧
      exec (.pktOff c) s = exec (.ssPacket s.cfg.offSentinel c)
        (State.emit { s with pfF1 := s.cfg.offSentinel } (.packet s.cfg.offSentinel c)))

/-- Channels are independent (R251): SS.CHECK and SS.PACKET on one channel change no other channel's
record, and SS.CHECK emits no pulse on another. -/
def Obligations.ChannelsAreIndependent : Prop :=
  ∀ (f1 c : Byte) (j : Nat) (i : Instr) (s t : State), i = .ssCheck c ∨ i = .ssPacket f1 c →
    exec i s = .next t → j ≠ c.toNat →
    t.ch[j]? = s.ch[j]? ∧ pulseCount j t.trace = pulseCount j s.trace
end

