-- ==== Sys2Proof/Laws/Memory.lean ====
section
/-! SUPPORT. The laws of a memory of cells: read after write, and the canonical form is kept. -/

namespace Sys2Proof.Machine

open Sys2Proof

@[simp] theorem Memory.read_nil (i : Nat) : Memory.read [] i = unlistedByte := rfl

theorem Memory.read_cons (a : Nat) (x : Byte) (m : Memory) (i : Nat) :
    Memory.read ((a, x) :: m) i = if a = i then x else Memory.read m i := rfl

theorem cellEntry_append_read (i j : Nat) (b : Byte) (m : Memory) :
    Memory.read (cellEntry i b ++ m) j =
      if i = j ∧ b ≠ unlistedByte then b else Memory.read m j := by
  unfold cellEntry
  split <;> simp_all [Memory.read_cons]

/-- An index below every listed one reads as unlisted. -/
theorem Memory.read_of_lt {m : Memory} {i : Nat} (h : ∀ e ∈ m, i < e.1) :
    m.read i = unlistedByte := by
  induction m with
  | nil => rfl
  | cons e m ih =>
    obtain ⟨a, x⟩ := e
    have ha : i < a := h (a, x) (by simp)
    rw [Memory.read_cons, if_neg (by omega)]
    exact ih fun e he => h e (List.mem_cons_of_mem _ he)

/-- A write leaves every other cell alone. -/
theorem Memory.read_write_of_ne (m : Memory) (i j : Nat) (b : Byte) (h : i ≠ j) :
    (m.write i b).read j = m.read j := by
  induction m with
  | nil => simpa [Memory.write, h] using cellEntry_append_read i j b []
  | cons e m ih =>
    obtain ⟨a, x⟩ := e
    unfold Memory.write
    split
    · rw [cellEntry_append_read, if_neg (by simp [h])]
    · split
      · rename_i h1 h2
        subst h2
        rw [cellEntry_append_read, if_neg (by simp [h]), Memory.read_cons, if_neg h]
      · rw [Memory.read_cons, Memory.read_cons, ih]

/-- A read after a write to the same cell gives the byte written. -/
theorem Memory.read_write_self {m : Memory} (h : m.wf) (i : Nat) (b : Byte) :
    (m.write i b).read i = b := by
  obtain ⟨hs, -⟩ := h
  induction m with
  | nil =>
    have := cellEntry_append_read i i b []
    simp only [List.append_nil] at this
    rw [Memory.write, this]
    split <;> simp_all
  | cons e m ih =>
    obtain ⟨a, x⟩ := e
    rw [List.pairwise_cons] at hs
    unfold Memory.write
    split
    · rename_i hlt
      rw [cellEntry_append_read]
      split
      · rfl
      · have hb : b = unlistedByte := by simp_all
        rw [hb]
        apply Memory.read_of_lt
        intro e he
        rcases List.mem_cons.mp he with rfl | he
        · exact hlt
        · exact lt_trans hlt (hs.1 e he)
    · split
      · rename_i h1 h2
        subst h2
        rw [cellEntry_append_read]
        split
        · rfl
        · have hb : b = unlistedByte := by simp_all
          rw [hb]
          exact Memory.read_of_lt hs.1
      · rename_i h1 h2
        rw [Memory.read_cons, if_neg (fun hc => h2 hc.symm)]
        exact ih hs.2

/-- The entries of a written memory: old ones, or the one written. -/
theorem Memory.mem_write {m : Memory} {i : Nat} {b : Byte} {e : Host.Cell} (h : e ∈ m.write i b) :
    e ∈ m ∨ (e = (i, b) ∧ b ≠ unlistedByte) := by
  induction m with
  | nil =>
    unfold Memory.write cellEntry at h
    split at h <;> simp_all
  | cons c m ih =>
    obtain ⟨a, x⟩ := c
    unfold Memory.write cellEntry at h
    split at h
    · split at h <;> simp_all
      tauto
    · split at h
      · split at h <;> simp_all
        tauto
      · rcases List.mem_cons.mp h with rfl | h
        · simp
        · rcases ih h with h | h
          · simp [h]
          · exact .inr h

/-- The canonical form is kept by every write. -/
theorem Memory.write_wf {m : Memory} (h : m.wf) (i : Nat) (b : Byte) : (m.write i b).wf := by
  refine ⟨?_, fun e he => ?_⟩
  · obtain ⟨hs, -⟩ := h
    induction m with
    | nil => unfold Memory.write cellEntry; split <;> simp
    | cons c m ih =>
      obtain ⟨a, x⟩ := c
      have hs' := List.pairwise_cons.mp hs
      unfold Memory.write
      split
      · rename_i hlt
        unfold cellEntry
        split
        · exact hs
        · refine List.pairwise_cons.mpr ⟨fun e he => ?_, hs⟩
          rcases List.mem_cons.mp he with rfl | he
          · exact hlt
          · exact lt_trans hlt (hs'.1 e he)
      · split
        · rename_i h1 h2
          subst h2
          unfold cellEntry
          split
          · exact hs'.2
          · exact List.pairwise_cons.mpr ⟨hs'.1, hs'.2⟩
        · refine List.pairwise_cons.mpr ⟨fun e he => ?_, ih hs'.2⟩
          rcases Memory.mem_write he with he | ⟨rfl, -⟩
          · exact hs'.1 e he
          · simp only; omega
  · rcases Memory.mem_write he with he | ⟨rfl, hb⟩
    · exact h.2 e he
    · exact hb

/-- A write below `n` keeps every listed index below `n`. -/
theorem Memory.write_lt {m : Memory} {n i : Nat} (b : Byte) (hm : ∀ e ∈ m, e.1 < n) (hi : i < n) :
    ∀ e ∈ m.write i b, e.1 < n := by
  intro e he
  rcases Memory.mem_write he with he | ⟨rfl, -⟩
  · exact hm e he
  · exact hi

end Sys2Proof.Machine
end

