-- ==== Sys2Proof/Laws/State.lean ====
section
/-! SUPPORT. The small lemmas of the state's updates: what each leaves unchanged, one lemma per field, and
what it writes. No later proof needs to unfold an update. -/

namespace Sys2Proof.Machine

open Sys2Proof

namespace State

/-! ### emit -/

@[simp] theorem emit_cfg (s : State) (e : Event) : (s.emit e).cfg = s.cfg := rfl
@[simp] theorem emit_rbBus (s : State) (e : Event) : (s.emit e).rbBus = s.rbBus := rfl
@[simp] theorem emit_rbSer (s : State) (e : Event) : (s.emit e).rbSer = s.rbSer := rfl
@[simp] theorem emit_d (s : State) (e : Event) : (s.emit e).d = s.d := rfl
@[simp] theorem emit_clk (s : State) (e : Event) : (s.emit e).clk = s.clk := rfl
@[simp] theorem emit_buswPhase (s : State) (e : Event) : (s.emit e).buswPhase = s.buswPhase := rfl
@[simp] theorem emit_irqPending (s : State) (e : Event) : (s.emit e).irqPending = s.irqPending := rfl
@[simp] theorem emit_pfState (s : State) (e : Event) : (s.emit e).pfState = s.pfState := rfl
@[simp] theorem emit_pfF1 (s : State) (e : Event) : (s.emit e).pfF1 = s.pfF1 := rfl
@[simp] theorem emit_sbdBusy (s : State) (e : Event) : (s.emit e).sbdBusy = s.sbdBusy := rfl
@[simp] theorem emit_sbdT0 (s : State) (e : Event) : (s.emit e).sbdT0 = s.sbdT0 := rfl
@[simp] theorem emit_sbdK (s : State) (e : Event) : (s.emit e).sbdK = s.sbdK := rfl
@[simp] theorem emit_sbdS (s : State) (e : Event) : (s.emit e).sbdS = s.sbdS := rfl
@[simp] theorem emit_ch (s : State) (e : Event) : (s.emit e).ch = s.ch := rfl
@[simp] theorem emit_stepPin (s : State) (e : Event) : (s.emit e).stepPin = s.stepPin := rfl
@[simp] theorem emit_eaState (s : State) (e : Event) : (s.emit e).eaState = s.eaState := rfl
@[simp] theorem emit_eaAction (s : State) (e : Event) : (s.emit e).eaAction = s.eaAction := rfl
@[simp] theorem emit_eaChannel (s : State) (e : Event) : (s.emit e).eaChannel = s.eaChannel := rfl
@[simp] theorem emit_eaKey (s : State) (e : Event) : (s.emit e).eaKey = s.eaKey := rfl
@[simp] theorem emit_assignedKey (s : State) (e : Event) : (s.emit e).assignedKey = s.assignedKey := rfl
@[simp] theorem emit_time (s : State) (e : Event) : (s.emit e).time = s.time := rfl
@[simp] theorem emit_rx (s : State) (e : Event) : (s.emit e).rx = s.rx := rfl
@[simp] theorem emit_rxWave (s : State) (e : Event) : (s.emit e).rxWave = s.rxWave := rfl
@[simp] theorem emit_delays (s : State) (e : Event) : (s.emit e).delays = s.delays := rfl
@[simp] theorem emit_pending (s : State) (e : Event) : (s.emit e).pending = s.pending := rfl
@[simp] theorem emit_busDriver (s : State) (e : Event) : (s.emit e).busDriver = s.busDriver := rfl
@[simp] theorem emit_busMark (s : State) (e : Event) : (s.emit e).busMark = s.busMark := rfl
@[simp] theorem emit_freeCtr (s : State) (e : Event) : (s.emit e).freeCtr = s.freeCtr := rfl
@[simp] theorem emit_busrOp (s : State) (e : Event) : (s.emit e).busrOp = s.busrOp := rfl
@[simp] theorem emit_sbdOp (s : State) (e : Event) : (s.emit e).sbdOp = s.sbdOp := rfl
@[simp] theorem emit_clientOp (s : State) (e : Event) : (s.emit e).clientOp = s.clientOp := rfl
@[simp] theorem emit_clientResp (s : State) (e : Event) : (s.emit e).clientResp = s.clientResp := rfl
@[simp] theorem emit_busrResp (s : State) (e : Event) : (s.emit e).busrResp = s.busrResp := rfl
@[simp] theorem emit_sbdResp (s : State) (e : Event) : (s.emit e).sbdResp = s.sbdResp := rfl
@[simp] theorem emit_trace (s : State) (e : Event) : (s.emit e).trace = s.trace ++ [e] := rfl

/-! ### drop -/

@[simp] theorem drop_cfg (s : State) (d : Drop) : (s.drop d).cfg = s.cfg := rfl
@[simp] theorem drop_rbBus (s : State) (d : Drop) : (s.drop d).rbBus = s.rbBus := rfl
@[simp] theorem drop_rbSer (s : State) (d : Drop) : (s.drop d).rbSer = s.rbSer := rfl
@[simp] theorem drop_d (s : State) (d : Drop) : (s.drop d).d = s.d := rfl
@[simp] theorem drop_clk (s : State) (d : Drop) : (s.drop d).clk = s.clk := rfl
@[simp] theorem drop_buswPhase (s : State) (d : Drop) : (s.drop d).buswPhase = s.buswPhase := rfl
@[simp] theorem drop_irqPending (s : State) (d : Drop) : (s.drop d).irqPending = s.irqPending := rfl
@[simp] theorem drop_pfState (s : State) (d : Drop) : (s.drop d).pfState = s.pfState := rfl
@[simp] theorem drop_pfF1 (s : State) (d : Drop) : (s.drop d).pfF1 = s.pfF1 := rfl
@[simp] theorem drop_sbdBusy (s : State) (d : Drop) : (s.drop d).sbdBusy = s.sbdBusy := rfl
@[simp] theorem drop_sbdT0 (s : State) (d : Drop) : (s.drop d).sbdT0 = s.sbdT0 := rfl
@[simp] theorem drop_sbdK (s : State) (d : Drop) : (s.drop d).sbdK = s.sbdK := rfl
@[simp] theorem drop_sbdS (s : State) (d : Drop) : (s.drop d).sbdS = s.sbdS := rfl
@[simp] theorem drop_ch (s : State) (d : Drop) : (s.drop d).ch = s.ch := rfl
@[simp] theorem drop_stepPin (s : State) (d : Drop) : (s.drop d).stepPin = s.stepPin := rfl
@[simp] theorem drop_eaState (s : State) (d : Drop) : (s.drop d).eaState = s.eaState := rfl
@[simp] theorem drop_eaAction (s : State) (d : Drop) : (s.drop d).eaAction = s.eaAction := rfl
@[simp] theorem drop_eaChannel (s : State) (d : Drop) : (s.drop d).eaChannel = s.eaChannel := rfl
@[simp] theorem drop_eaKey (s : State) (d : Drop) : (s.drop d).eaKey = s.eaKey := rfl
@[simp] theorem drop_assignedKey (s : State) (d : Drop) : (s.drop d).assignedKey = s.assignedKey := rfl
@[simp] theorem drop_time (s : State) (d : Drop) : (s.drop d).time = s.time := rfl
@[simp] theorem drop_rx (s : State) (d : Drop) : (s.drop d).rx = s.rx := rfl
@[simp] theorem drop_rxWave (s : State) (d : Drop) : (s.drop d).rxWave = s.rxWave := rfl
@[simp] theorem drop_delays (s : State) (d : Drop) : (s.drop d).delays = s.delays := rfl
@[simp] theorem drop_pending (s : State) (d : Drop) : (s.drop d).pending = s.pending := rfl
@[simp] theorem drop_busDriver (s : State) (d : Drop) : (s.drop d).busDriver = s.busDriver := rfl
@[simp] theorem drop_busMark (s : State) (d : Drop) : (s.drop d).busMark = s.busMark := rfl
@[simp] theorem drop_freeCtr (s : State) (d : Drop) : (s.drop d).freeCtr = s.freeCtr := rfl
@[simp] theorem drop_busrOp (s : State) (d : Drop) : (s.drop d).busrOp = s.busrOp := rfl
@[simp] theorem drop_sbdOp (s : State) (d : Drop) : (s.drop d).sbdOp = s.sbdOp := rfl
@[simp] theorem drop_clientOp (s : State) (d : Drop) : (s.drop d).clientOp = s.clientOp := rfl
@[simp] theorem drop_clientResp (s : State) (d : Drop) : (s.drop d).clientResp = s.clientResp := rfl
@[simp] theorem drop_busrResp (s : State) (d : Drop) : (s.drop d).busrResp = s.busrResp := rfl
@[simp] theorem drop_sbdResp (s : State) (d : Drop) : (s.drop d).sbdResp = s.sbdResp := rfl
@[simp] theorem drop_trace (s : State) (d : Drop) : (s.drop d).trace = s.trace ++ [.drop d] := rfl

/-! ### respond -/

@[simp] theorem respond_cfg (s : State) (a : Agent) (x : Response) : (s.respond a x).cfg = s.cfg := by cases a <;> rfl
@[simp] theorem respond_rbBus (s : State) (a : Agent) (x : Response) : (s.respond a x).rbBus = s.rbBus := by cases a <;> rfl
@[simp] theorem respond_rbSer (s : State) (a : Agent) (x : Response) : (s.respond a x).rbSer = s.rbSer := by cases a <;> rfl
@[simp] theorem respond_d (s : State) (a : Agent) (x : Response) : (s.respond a x).d = s.d := by cases a <;> rfl
@[simp] theorem respond_clk (s : State) (a : Agent) (x : Response) : (s.respond a x).clk = s.clk := by cases a <;> rfl
@[simp] theorem respond_buswPhase (s : State) (a : Agent) (x : Response) : (s.respond a x).buswPhase = s.buswPhase := by cases a <;> rfl
@[simp] theorem respond_irqPending (s : State) (a : Agent) (x : Response) : (s.respond a x).irqPending = s.irqPending := by cases a <;> rfl
@[simp] theorem respond_pfState (s : State) (a : Agent) (x : Response) : (s.respond a x).pfState = s.pfState := by cases a <;> rfl
@[simp] theorem respond_pfF1 (s : State) (a : Agent) (x : Response) : (s.respond a x).pfF1 = s.pfF1 := by cases a <;> rfl
@[simp] theorem respond_sbdBusy (s : State) (a : Agent) (x : Response) : (s.respond a x).sbdBusy = s.sbdBusy := by cases a <;> rfl
@[simp] theorem respond_sbdT0 (s : State) (a : Agent) (x : Response) : (s.respond a x).sbdT0 = s.sbdT0 := by cases a <;> rfl
@[simp] theorem respond_sbdK (s : State) (a : Agent) (x : Response) : (s.respond a x).sbdK = s.sbdK := by cases a <;> rfl
@[simp] theorem respond_sbdS (s : State) (a : Agent) (x : Response) : (s.respond a x).sbdS = s.sbdS := by cases a <;> rfl
@[simp] theorem respond_ch (s : State) (a : Agent) (x : Response) : (s.respond a x).ch = s.ch := by cases a <;> rfl
@[simp] theorem respond_stepPin (s : State) (a : Agent) (x : Response) : (s.respond a x).stepPin = s.stepPin := by cases a <;> rfl
@[simp] theorem respond_eaState (s : State) (a : Agent) (x : Response) : (s.respond a x).eaState = s.eaState := by cases a <;> rfl
@[simp] theorem respond_eaAction (s : State) (a : Agent) (x : Response) : (s.respond a x).eaAction = s.eaAction := by cases a <;> rfl
@[simp] theorem respond_eaChannel (s : State) (a : Agent) (x : Response) : (s.respond a x).eaChannel = s.eaChannel := by cases a <;> rfl
@[simp] theorem respond_eaKey (s : State) (a : Agent) (x : Response) : (s.respond a x).eaKey = s.eaKey := by cases a <;> rfl
@[simp] theorem respond_assignedKey (s : State) (a : Agent) (x : Response) : (s.respond a x).assignedKey = s.assignedKey := by cases a <;> rfl
@[simp] theorem respond_time (s : State) (a : Agent) (x : Response) : (s.respond a x).time = s.time := by cases a <;> rfl
@[simp] theorem respond_rx (s : State) (a : Agent) (x : Response) : (s.respond a x).rx = s.rx := by cases a <;> rfl
@[simp] theorem respond_rxWave (s : State) (a : Agent) (x : Response) : (s.respond a x).rxWave = s.rxWave := by cases a <;> rfl
@[simp] theorem respond_delays (s : State) (a : Agent) (x : Response) : (s.respond a x).delays = s.delays := by cases a <;> rfl
@[simp] theorem respond_pending (s : State) (a : Agent) (x : Response) : (s.respond a x).pending = s.pending := by cases a <;> rfl
@[simp] theorem respond_busDriver (s : State) (a : Agent) (x : Response) : (s.respond a x).busDriver = s.busDriver := by cases a <;> rfl
@[simp] theorem respond_busMark (s : State) (a : Agent) (x : Response) : (s.respond a x).busMark = s.busMark := by cases a <;> rfl
@[simp] theorem respond_freeCtr (s : State) (a : Agent) (x : Response) : (s.respond a x).freeCtr = s.freeCtr := by cases a <;> rfl
@[simp] theorem respond_busrOp (s : State) (a : Agent) (x : Response) : (s.respond a x).busrOp = s.busrOp := by cases a <;> rfl
@[simp] theorem respond_sbdOp (s : State) (a : Agent) (x : Response) : (s.respond a x).sbdOp = s.sbdOp := by cases a <;> rfl
@[simp] theorem respond_clientOp (s : State) (a : Agent) (x : Response) : (s.respond a x).clientOp = s.clientOp := by cases a <;> rfl
@[simp] theorem respond_trace (s : State) (a : Agent) (x : Response) : (s.respond a x).trace = s.trace := by cases a <;> rfl
@[simp] theorem respond_client (s : State) (x : Response) : (s.respond .client x).clientResp = x := rfl
@[simp] theorem respond_busr (s : State) (x : Response) : (s.respond .busr x).busrResp = x := rfl
@[simp] theorem respond_sbd (s : State) (x : Response) : (s.respond .sbd x).sbdResp = x := rfl

/-! ### setRing -/

@[simp] theorem setRing_cfg (s : State) (r : RingId) (q : Ring) : (s.setRing r q).cfg = s.cfg := by cases r <;> rfl
@[simp] theorem setRing_d (s : State) (r : RingId) (q : Ring) : (s.setRing r q).d = s.d := by cases r <;> rfl
@[simp] theorem setRing_clk (s : State) (r : RingId) (q : Ring) : (s.setRing r q).clk = s.clk := by cases r <;> rfl
@[simp] theorem setRing_buswPhase (s : State) (r : RingId) (q : Ring) : (s.setRing r q).buswPhase = s.buswPhase := by cases r <;> rfl
@[simp] theorem setRing_irqPending (s : State) (r : RingId) (q : Ring) : (s.setRing r q).irqPending = s.irqPending := by cases r <;> rfl
@[simp] theorem setRing_pfState (s : State) (r : RingId) (q : Ring) : (s.setRing r q).pfState = s.pfState := by cases r <;> rfl
@[simp] theorem setRing_pfF1 (s : State) (r : RingId) (q : Ring) : (s.setRing r q).pfF1 = s.pfF1 := by cases r <;> rfl
@[simp] theorem setRing_sbdBusy (s : State) (r : RingId) (q : Ring) : (s.setRing r q).sbdBusy = s.sbdBusy := by cases r <;> rfl
@[simp] theorem setRing_sbdT0 (s : State) (r : RingId) (q : Ring) : (s.setRing r q).sbdT0 = s.sbdT0 := by cases r <;> rfl
@[simp] theorem setRing_sbdK (s : State) (r : RingId) (q : Ring) : (s.setRing r q).sbdK = s.sbdK := by cases r <;> rfl
@[simp] theorem setRing_sbdS (s : State) (r : RingId) (q : Ring) : (s.setRing r q).sbdS = s.sbdS := by cases r <;> rfl
@[simp] theorem setRing_ch (s : State) (r : RingId) (q : Ring) : (s.setRing r q).ch = s.ch := by cases r <;> rfl
@[simp] theorem setRing_stepPin (s : State) (r : RingId) (q : Ring) : (s.setRing r q).stepPin = s.stepPin := by cases r <;> rfl
@[simp] theorem setRing_eaState (s : State) (r : RingId) (q : Ring) : (s.setRing r q).eaState = s.eaState := by cases r <;> rfl
@[simp] theorem setRing_eaAction (s : State) (r : RingId) (q : Ring) : (s.setRing r q).eaAction = s.eaAction := by cases r <;> rfl
@[simp] theorem setRing_eaChannel (s : State) (r : RingId) (q : Ring) : (s.setRing r q).eaChannel = s.eaChannel := by cases r <;> rfl
@[simp] theorem setRing_eaKey (s : State) (r : RingId) (q : Ring) : (s.setRing r q).eaKey = s.eaKey := by cases r <;> rfl
@[simp] theorem setRing_assignedKey (s : State) (r : RingId) (q : Ring) : (s.setRing r q).assignedKey = s.assignedKey := by cases r <;> rfl
@[simp] theorem setRing_time (s : State) (r : RingId) (q : Ring) : (s.setRing r q).time = s.time := by cases r <;> rfl
@[simp] theorem setRing_rx (s : State) (r : RingId) (q : Ring) : (s.setRing r q).rx = s.rx := by cases r <;> rfl
@[simp] theorem setRing_rxWave (s : State) (r : RingId) (q : Ring) : (s.setRing r q).rxWave = s.rxWave := by cases r <;> rfl
@[simp] theorem setRing_delays (s : State) (r : RingId) (q : Ring) : (s.setRing r q).delays = s.delays := by cases r <;> rfl
@[simp] theorem setRing_pending (s : State) (r : RingId) (q : Ring) : (s.setRing r q).pending = s.pending := by cases r <;> rfl
@[simp] theorem setRing_busDriver (s : State) (r : RingId) (q : Ring) : (s.setRing r q).busDriver = s.busDriver := by cases r <;> rfl
@[simp] theorem setRing_busMark (s : State) (r : RingId) (q : Ring) : (s.setRing r q).busMark = s.busMark := by cases r <;> rfl
@[simp] theorem setRing_freeCtr (s : State) (r : RingId) (q : Ring) : (s.setRing r q).freeCtr = s.freeCtr := by cases r <;> rfl
@[simp] theorem setRing_busrOp (s : State) (r : RingId) (q : Ring) : (s.setRing r q).busrOp = s.busrOp := by cases r <;> rfl
@[simp] theorem setRing_sbdOp (s : State) (r : RingId) (q : Ring) : (s.setRing r q).sbdOp = s.sbdOp := by cases r <;> rfl
@[simp] theorem setRing_clientOp (s : State) (r : RingId) (q : Ring) : (s.setRing r q).clientOp = s.clientOp := by cases r <;> rfl
@[simp] theorem setRing_clientResp (s : State) (r : RingId) (q : Ring) : (s.setRing r q).clientResp = s.clientResp := by cases r <;> rfl
@[simp] theorem setRing_busrResp (s : State) (r : RingId) (q : Ring) : (s.setRing r q).busrResp = s.busrResp := by cases r <;> rfl
@[simp] theorem setRing_sbdResp (s : State) (r : RingId) (q : Ring) : (s.setRing r q).sbdResp = s.sbdResp := by cases r <;> rfl
@[simp] theorem setRing_trace (s : State) (r : RingId) (q : Ring) : (s.setRing r q).trace = s.trace := by cases r <;> rfl
@[simp] theorem ring_setRing (s : State) (r : RingId) (q : Ring) : (s.setRing r q).ring r = q := by cases r <;> rfl
theorem ring_setRing_of_ne (s : State) {r r' : RingId} (q : Ring) (h : r' ≠ r) : (s.setRing r q).ring r' = s.ring r' := by
  cases r <;> cases r' <;> first | rfl | exact absurd rfl h
@[simp] theorem setRing_setRing (s : State) (r : RingId) (q q' : Ring) : (s.setRing r q).setRing r q' = s.setRing r q' := by cases r <;> rfl
@[simp] theorem setRing_ring (s : State) (r : RingId) : s.setRing r (s.ring r) = s := by cases r <;> rfl
@[simp] theorem setRing_slotsOf (s : State) (r r' : RingId) (q : Ring) : (s.setRing r q).slotsOf r' = s.slotsOf r' := by cases r <;> rfl
@[simp] theorem emit_ring (s : State) (e : Event) (r : RingId) : (s.emit e).ring r = s.ring r := by cases r <;> rfl
@[simp] theorem drop_ring (s : State) (d : Drop) (r : RingId) : (s.drop d).ring r = s.ring r := by cases r <;> rfl
@[simp] theorem respond_ring (s : State) (a : Agent) (x : Response) (r : RingId) : (s.respond a x).ring r = s.ring r := by cases a <;> cases r <;> rfl

/-! ### setEnqOp -/

@[simp] theorem setEnqOp_cfg (s : State) (r : RingId) (x : Option EnqOp) : (s.setEnqOp r x).cfg = s.cfg := by cases r <;> rfl
@[simp] theorem setEnqOp_rbBus (s : State) (r : RingId) (x : Option EnqOp) : (s.setEnqOp r x).rbBus = s.rbBus := by cases r <;> rfl
@[simp] theorem setEnqOp_rbSer (s : State) (r : RingId) (x : Option EnqOp) : (s.setEnqOp r x).rbSer = s.rbSer := by cases r <;> rfl
@[simp] theorem setEnqOp_d (s : State) (r : RingId) (x : Option EnqOp) : (s.setEnqOp r x).d = s.d := by cases r <;> rfl
@[simp] theorem setEnqOp_clk (s : State) (r : RingId) (x : Option EnqOp) : (s.setEnqOp r x).clk = s.clk := by cases r <;> rfl
@[simp] theorem setEnqOp_buswPhase (s : State) (r : RingId) (x : Option EnqOp) : (s.setEnqOp r x).buswPhase = s.buswPhase := by cases r <;> rfl
@[simp] theorem setEnqOp_irqPending (s : State) (r : RingId) (x : Option EnqOp) : (s.setEnqOp r x).irqPending = s.irqPending := by cases r <;> rfl
@[simp] theorem setEnqOp_pfState (s : State) (r : RingId) (x : Option EnqOp) : (s.setEnqOp r x).pfState = s.pfState := by cases r <;> rfl
@[simp] theorem setEnqOp_pfF1 (s : State) (r : RingId) (x : Option EnqOp) : (s.setEnqOp r x).pfF1 = s.pfF1 := by cases r <;> rfl
@[simp] theorem setEnqOp_sbdBusy (s : State) (r : RingId) (x : Option EnqOp) : (s.setEnqOp r x).sbdBusy = s.sbdBusy := by cases r <;> rfl
@[simp] theorem setEnqOp_sbdT0 (s : State) (r : RingId) (x : Option EnqOp) : (s.setEnqOp r x).sbdT0 = s.sbdT0 := by cases r <;> rfl
@[simp] theorem setEnqOp_sbdK (s : State) (r : RingId) (x : Option EnqOp) : (s.setEnqOp r x).sbdK = s.sbdK := by cases r <;> rfl
@[simp] theorem setEnqOp_sbdS (s : State) (r : RingId) (x : Option EnqOp) : (s.setEnqOp r x).sbdS = s.sbdS := by cases r <;> rfl
@[simp] theorem setEnqOp_ch (s : State) (r : RingId) (x : Option EnqOp) : (s.setEnqOp r x).ch = s.ch := by cases r <;> rfl
@[simp] theorem setEnqOp_stepPin (s : State) (r : RingId) (x : Option EnqOp) : (s.setEnqOp r x).stepPin = s.stepPin := by cases r <;> rfl
@[simp] theorem setEnqOp_eaState (s : State) (r : RingId) (x : Option EnqOp) : (s.setEnqOp r x).eaState = s.eaState := by cases r <;> rfl
@[simp] theorem setEnqOp_eaAction (s : State) (r : RingId) (x : Option EnqOp) : (s.setEnqOp r x).eaAction = s.eaAction := by cases r <;> rfl
@[simp] theorem setEnqOp_eaChannel (s : State) (r : RingId) (x : Option EnqOp) : (s.setEnqOp r x).eaChannel = s.eaChannel := by cases r <;> rfl
@[simp] theorem setEnqOp_eaKey (s : State) (r : RingId) (x : Option EnqOp) : (s.setEnqOp r x).eaKey = s.eaKey := by cases r <;> rfl
@[simp] theorem setEnqOp_assignedKey (s : State) (r : RingId) (x : Option EnqOp) : (s.setEnqOp r x).assignedKey = s.assignedKey := by cases r <;> rfl
@[simp] theorem setEnqOp_time (s : State) (r : RingId) (x : Option EnqOp) : (s.setEnqOp r x).time = s.time := by cases r <;> rfl
@[simp] theorem setEnqOp_rx (s : State) (r : RingId) (x : Option EnqOp) : (s.setEnqOp r x).rx = s.rx := by cases r <;> rfl
@[simp] theorem setEnqOp_rxWave (s : State) (r : RingId) (x : Option EnqOp) : (s.setEnqOp r x).rxWave = s.rxWave := by cases r <;> rfl
@[simp] theorem setEnqOp_delays (s : State) (r : RingId) (x : Option EnqOp) : (s.setEnqOp r x).delays = s.delays := by cases r <;> rfl
@[simp] theorem setEnqOp_pending (s : State) (r : RingId) (x : Option EnqOp) : (s.setEnqOp r x).pending = s.pending := by cases r <;> rfl
@[simp] theorem setEnqOp_busDriver (s : State) (r : RingId) (x : Option EnqOp) : (s.setEnqOp r x).busDriver = s.busDriver := by cases r <;> rfl
@[simp] theorem setEnqOp_busMark (s : State) (r : RingId) (x : Option EnqOp) : (s.setEnqOp r x).busMark = s.busMark := by cases r <;> rfl
@[simp] theorem setEnqOp_freeCtr (s : State) (r : RingId) (x : Option EnqOp) : (s.setEnqOp r x).freeCtr = s.freeCtr := by cases r <;> rfl
@[simp] theorem setEnqOp_clientOp (s : State) (r : RingId) (x : Option EnqOp) : (s.setEnqOp r x).clientOp = s.clientOp := by cases r <;> rfl
@[simp] theorem setEnqOp_clientResp (s : State) (r : RingId) (x : Option EnqOp) : (s.setEnqOp r x).clientResp = s.clientResp := by cases r <;> rfl
@[simp] theorem setEnqOp_busrResp (s : State) (r : RingId) (x : Option EnqOp) : (s.setEnqOp r x).busrResp = s.busrResp := by cases r <;> rfl
@[simp] theorem setEnqOp_sbdResp (s : State) (r : RingId) (x : Option EnqOp) : (s.setEnqOp r x).sbdResp = s.sbdResp := by cases r <;> rfl
@[simp] theorem setEnqOp_trace (s : State) (r : RingId) (x : Option EnqOp) : (s.setEnqOp r x).trace = s.trace := by cases r <;> rfl
@[simp] theorem enqOp_setEnqOp (s : State) (r : RingId) (x : Option EnqOp) : (s.setEnqOp r x).enqOp r = x := by cases r <;> rfl
@[simp] theorem setEnqOp_ring (s : State) (r r' : RingId) (x : Option EnqOp) : (s.setEnqOp r x).ring r' = s.ring r' := by cases r <;> cases r' <;> rfl

/-! ### useFree and endHandler -/

@[simp] theorem useFree_cfg (s : State) : (s.useFree).cfg = s.cfg := rfl
@[simp] theorem useFree_rbBus (s : State) : (s.useFree).rbBus = s.rbBus := rfl
@[simp] theorem useFree_rbSer (s : State) : (s.useFree).rbSer = s.rbSer := rfl
@[simp] theorem useFree_d (s : State) : (s.useFree).d = s.d := rfl
@[simp] theorem useFree_clk (s : State) : (s.useFree).clk = s.clk := rfl
@[simp] theorem useFree_buswPhase (s : State) : (s.useFree).buswPhase = s.buswPhase := rfl
@[simp] theorem useFree_irqPending (s : State) : (s.useFree).irqPending = s.irqPending := rfl
@[simp] theorem useFree_pfState (s : State) : (s.useFree).pfState = s.pfState := rfl
@[simp] theorem useFree_pfF1 (s : State) : (s.useFree).pfF1 = s.pfF1 := rfl
@[simp] theorem useFree_sbdBusy (s : State) : (s.useFree).sbdBusy = s.sbdBusy := rfl
@[simp] theorem useFree_sbdT0 (s : State) : (s.useFree).sbdT0 = s.sbdT0 := rfl
@[simp] theorem useFree_sbdK (s : State) : (s.useFree).sbdK = s.sbdK := rfl
@[simp] theorem useFree_sbdS (s : State) : (s.useFree).sbdS = s.sbdS := rfl
@[simp] theorem useFree_ch (s : State) : (s.useFree).ch = s.ch := rfl
@[simp] theorem useFree_stepPin (s : State) : (s.useFree).stepPin = s.stepPin := rfl
@[simp] theorem useFree_eaState (s : State) : (s.useFree).eaState = s.eaState := rfl
@[simp] theorem useFree_eaAction (s : State) : (s.useFree).eaAction = s.eaAction := rfl
@[simp] theorem useFree_eaChannel (s : State) : (s.useFree).eaChannel = s.eaChannel := rfl
@[simp] theorem useFree_eaKey (s : State) : (s.useFree).eaKey = s.eaKey := rfl
@[simp] theorem useFree_assignedKey (s : State) : (s.useFree).assignedKey = s.assignedKey := rfl
@[simp] theorem useFree_time (s : State) : (s.useFree).time = s.time := rfl
@[simp] theorem useFree_rx (s : State) : (s.useFree).rx = s.rx := rfl
@[simp] theorem useFree_rxWave (s : State) : (s.useFree).rxWave = s.rxWave := rfl
@[simp] theorem useFree_delays (s : State) : (s.useFree).delays = s.delays := rfl
@[simp] theorem useFree_pending (s : State) : (s.useFree).pending = s.pending := rfl
@[simp] theorem useFree_busDriver (s : State) : (s.useFree).busDriver = s.busDriver := rfl
@[simp] theorem useFree_busMark (s : State) : (s.useFree).busMark = s.busMark := rfl
@[simp] theorem useFree_busrOp (s : State) : (s.useFree).busrOp = s.busrOp := rfl
@[simp] theorem useFree_sbdOp (s : State) : (s.useFree).sbdOp = s.sbdOp := rfl
@[simp] theorem useFree_clientOp (s : State) : (s.useFree).clientOp = s.clientOp := rfl
@[simp] theorem useFree_clientResp (s : State) : (s.useFree).clientResp = s.clientResp := rfl
@[simp] theorem useFree_busrResp (s : State) : (s.useFree).busrResp = s.busrResp := rfl
@[simp] theorem useFree_sbdResp (s : State) : (s.useFree).sbdResp = s.sbdResp := rfl
@[simp] theorem useFree_trace (s : State) : (s.useFree).trace = s.trace := rfl
@[simp] theorem useFree_freeCtr (s : State) : (s.useFree).freeCtr = s.freeCtr + 1 := rfl
@[simp] theorem useFree_ring (s : State) (r : RingId) : (s.useFree).ring r = s.ring r := by cases r <;> rfl
@[simp] theorem useFree_setRing (s : State) (r : RingId) (q : Ring) : (s.useFree).setRing r q = (s.setRing r q).useFree := by cases r <;> rfl
@[simp] theorem emit_slotsOf (s : State) (e : Event) (r : RingId) : (s.emit e).slotsOf r = s.slotsOf r := rfl
@[simp] theorem useFree_slotsOf (s : State) (r : RingId) : (s.useFree).slotsOf r = s.slotsOf r := rfl
@[simp] theorem endHandler_cfg (r : RingId) (s : State) : (endHandler r s).cfg = s.cfg := by cases r <;> rfl
@[simp] theorem endHandler_rbBus (r : RingId) (s : State) : (endHandler r s).rbBus = s.rbBus := by cases r <;> rfl
@[simp] theorem endHandler_rbSer (r : RingId) (s : State) : (endHandler r s).rbSer = s.rbSer := by cases r <;> rfl
@[simp] theorem endHandler_d (r : RingId) (s : State) : (endHandler r s).d = s.d := by cases r <;> rfl
@[simp] theorem endHandler_clk (r : RingId) (s : State) : (endHandler r s).clk = s.clk := by cases r <;> rfl
@[simp] theorem endHandler_buswPhase (r : RingId) (s : State) : (endHandler r s).buswPhase = s.buswPhase := by cases r <;> rfl
@[simp] theorem endHandler_irqPending (r : RingId) (s : State) : (endHandler r s).irqPending = s.irqPending := by cases r <;> rfl
@[simp] theorem endHandler_pfState (r : RingId) (s : State) : (endHandler r s).pfState = s.pfState := by cases r <;> rfl
@[simp] theorem endHandler_pfF1 (r : RingId) (s : State) : (endHandler r s).pfF1 = s.pfF1 := by cases r <;> rfl
@[simp] theorem endHandler_sbdT0 (r : RingId) (s : State) : (endHandler r s).sbdT0 = s.sbdT0 := by cases r <;> rfl
@[simp] theorem endHandler_sbdK (r : RingId) (s : State) : (endHandler r s).sbdK = s.sbdK := by cases r <;> rfl
@[simp] theorem endHandler_sbdS (r : RingId) (s : State) : (endHandler r s).sbdS = s.sbdS := by cases r <;> rfl
@[simp] theorem endHandler_ch (r : RingId) (s : State) : (endHandler r s).ch = s.ch := by cases r <;> rfl
@[simp] theorem endHandler_stepPin (r : RingId) (s : State) : (endHandler r s).stepPin = s.stepPin := by cases r <;> rfl
@[simp] theorem endHandler_eaState (r : RingId) (s : State) : (endHandler r s).eaState = s.eaState := by cases r <;> rfl
@[simp] theorem endHandler_eaAction (r : RingId) (s : State) : (endHandler r s).eaAction = s.eaAction := by cases r <;> rfl
@[simp] theorem endHandler_eaChannel (r : RingId) (s : State) : (endHandler r s).eaChannel = s.eaChannel := by cases r <;> rfl
@[simp] theorem endHandler_eaKey (r : RingId) (s : State) : (endHandler r s).eaKey = s.eaKey := by cases r <;> rfl
@[simp] theorem endHandler_assignedKey (r : RingId) (s : State) : (endHandler r s).assignedKey = s.assignedKey := by cases r <;> rfl
@[simp] theorem endHandler_time (r : RingId) (s : State) : (endHandler r s).time = s.time := by cases r <;> rfl
@[simp] theorem endHandler_rx (r : RingId) (s : State) : (endHandler r s).rx = s.rx := by cases r <;> rfl
@[simp] theorem endHandler_rxWave (r : RingId) (s : State) : (endHandler r s).rxWave = s.rxWave := by cases r <;> rfl
@[simp] theorem endHandler_delays (r : RingId) (s : State) : (endHandler r s).delays = s.delays := by cases r <;> rfl
@[simp] theorem endHandler_pending (r : RingId) (s : State) : (endHandler r s).pending = s.pending := by cases r <;> rfl
@[simp] theorem endHandler_busDriver (r : RingId) (s : State) : (endHandler r s).busDriver = s.busDriver := by cases r <;> rfl
@[simp] theorem endHandler_busMark (r : RingId) (s : State) : (endHandler r s).busMark = s.busMark := by cases r <;> rfl
@[simp] theorem endHandler_freeCtr (r : RingId) (s : State) : (endHandler r s).freeCtr = s.freeCtr := by cases r <;> rfl
@[simp] theorem endHandler_busrOp (r : RingId) (s : State) : (endHandler r s).busrOp = s.busrOp := by cases r <;> rfl
@[simp] theorem endHandler_sbdOp (r : RingId) (s : State) : (endHandler r s).sbdOp = s.sbdOp := by cases r <;> rfl
@[simp] theorem endHandler_clientOp (r : RingId) (s : State) : (endHandler r s).clientOp = s.clientOp := by cases r <;> rfl
@[simp] theorem endHandler_clientResp (r : RingId) (s : State) : (endHandler r s).clientResp = s.clientResp := by cases r <;> rfl
@[simp] theorem endHandler_busrResp (r : RingId) (s : State) : (endHandler r s).busrResp = s.busrResp := by cases r <;> rfl
@[simp] theorem endHandler_sbdResp (r : RingId) (s : State) : (endHandler r s).sbdResp = s.sbdResp := by cases r <;> rfl
@[simp] theorem endHandler_trace (r : RingId) (s : State) : (endHandler r s).trace = s.trace := by cases r <;> rfl

/-! ### passDelay and waitBus -/

@[simp] theorem passDelay_cfg (s : State) : (s.passDelay).cfg = s.cfg := by unfold passDelay; split <;> rfl
@[simp] theorem passDelay_rbBus (s : State) : (s.passDelay).rbBus = s.rbBus := by unfold passDelay; split <;> rfl
@[simp] theorem passDelay_rbSer (s : State) : (s.passDelay).rbSer = s.rbSer := by unfold passDelay; split <;> rfl
@[simp] theorem passDelay_d (s : State) : (s.passDelay).d = s.d := by unfold passDelay; split <;> rfl
@[simp] theorem passDelay_clk (s : State) : (s.passDelay).clk = s.clk := by unfold passDelay; split <;> rfl
@[simp] theorem passDelay_buswPhase (s : State) : (s.passDelay).buswPhase = s.buswPhase := by unfold passDelay; split <;> rfl
@[simp] theorem passDelay_irqPending (s : State) : (s.passDelay).irqPending = s.irqPending := by unfold passDelay; split <;> rfl
@[simp] theorem passDelay_pfState (s : State) : (s.passDelay).pfState = s.pfState := by unfold passDelay; split <;> rfl
@[simp] theorem passDelay_pfF1 (s : State) : (s.passDelay).pfF1 = s.pfF1 := by unfold passDelay; split <;> rfl
@[simp] theorem passDelay_sbdBusy (s : State) : (s.passDelay).sbdBusy = s.sbdBusy := by unfold passDelay; split <;> rfl
@[simp] theorem passDelay_sbdT0 (s : State) : (s.passDelay).sbdT0 = s.sbdT0 := by unfold passDelay; split <;> rfl
@[simp] theorem passDelay_sbdK (s : State) : (s.passDelay).sbdK = s.sbdK := by unfold passDelay; split <;> rfl
@[simp] theorem passDelay_sbdS (s : State) : (s.passDelay).sbdS = s.sbdS := by unfold passDelay; split <;> rfl
@[simp] theorem passDelay_ch (s : State) : (s.passDelay).ch = s.ch := by unfold passDelay; split <;> rfl
@[simp] theorem passDelay_stepPin (s : State) : (s.passDelay).stepPin = s.stepPin := by unfold passDelay; split <;> rfl
@[simp] theorem passDelay_eaState (s : State) : (s.passDelay).eaState = s.eaState := by unfold passDelay; split <;> rfl
@[simp] theorem passDelay_eaAction (s : State) : (s.passDelay).eaAction = s.eaAction := by unfold passDelay; split <;> rfl
@[simp] theorem passDelay_eaChannel (s : State) : (s.passDelay).eaChannel = s.eaChannel := by unfold passDelay; split <;> rfl
@[simp] theorem passDelay_eaKey (s : State) : (s.passDelay).eaKey = s.eaKey := by unfold passDelay; split <;> rfl
@[simp] theorem passDelay_assignedKey (s : State) : (s.passDelay).assignedKey = s.assignedKey := by unfold passDelay; split <;> rfl
@[simp] theorem passDelay_rx (s : State) : (s.passDelay).rx = s.rx := by unfold passDelay; split <;> rfl
@[simp] theorem passDelay_rxWave (s : State) : (s.passDelay).rxWave = s.rxWave := by unfold passDelay; split <;> rfl
@[simp] theorem passDelay_pending (s : State) : (s.passDelay).pending = s.pending := by unfold passDelay; split <;> rfl
@[simp] theorem passDelay_busDriver (s : State) : (s.passDelay).busDriver = s.busDriver := by unfold passDelay; split <;> rfl
@[simp] theorem passDelay_busMark (s : State) : (s.passDelay).busMark = s.busMark := by unfold passDelay; split <;> rfl
@[simp] theorem passDelay_freeCtr (s : State) : (s.passDelay).freeCtr = s.freeCtr := by unfold passDelay; split <;> rfl
@[simp] theorem passDelay_busrOp (s : State) : (s.passDelay).busrOp = s.busrOp := by unfold passDelay; split <;> rfl
@[simp] theorem passDelay_sbdOp (s : State) : (s.passDelay).sbdOp = s.sbdOp := by unfold passDelay; split <;> rfl
@[simp] theorem passDelay_clientOp (s : State) : (s.passDelay).clientOp = s.clientOp := by unfold passDelay; split <;> rfl
@[simp] theorem passDelay_clientResp (s : State) : (s.passDelay).clientResp = s.clientResp := by unfold passDelay; split <;> rfl
@[simp] theorem passDelay_busrResp (s : State) : (s.passDelay).busrResp = s.busrResp := by unfold passDelay; split <;> rfl
@[simp] theorem passDelay_sbdResp (s : State) : (s.passDelay).sbdResp = s.sbdResp := by unfold passDelay; split <;> rfl
@[simp] theorem passDelay_trace (s : State) : (s.passDelay).trace = s.trace := by unfold passDelay; split <;> rfl
theorem passDelay_time (s : State) : s.passDelay.time = s.time + s.delays.headD 0 := by
  unfold passDelay; split <;> simp_all
theorem passDelay_delays (s : State) : s.passDelay.delays = s.delays.tail := by
  unfold passDelay; split <;> simp_all

@[simp] theorem waitBus_cfg (s : State) (us : Nat) : (s.waitBus us).cfg = s.cfg := by unfold waitBus; simp
@[simp] theorem waitBus_rbBus (s : State) (us : Nat) : (s.waitBus us).rbBus = s.rbBus := by unfold waitBus; simp
@[simp] theorem waitBus_rbSer (s : State) (us : Nat) : (s.waitBus us).rbSer = s.rbSer := by unfold waitBus; simp
@[simp] theorem waitBus_d (s : State) (us : Nat) : (s.waitBus us).d = s.d := by unfold waitBus; simp
@[simp] theorem waitBus_clk (s : State) (us : Nat) : (s.waitBus us).clk = s.clk := by unfold waitBus; simp
@[simp] theorem waitBus_buswPhase (s : State) (us : Nat) : (s.waitBus us).buswPhase = s.buswPhase := by unfold waitBus; simp
@[simp] theorem waitBus_irqPending (s : State) (us : Nat) : (s.waitBus us).irqPending = s.irqPending := by unfold waitBus; simp
@[simp] theorem waitBus_pfState (s : State) (us : Nat) : (s.waitBus us).pfState = s.pfState := by unfold waitBus; simp
@[simp] theorem waitBus_pfF1 (s : State) (us : Nat) : (s.waitBus us).pfF1 = s.pfF1 := by unfold waitBus; simp
@[simp] theorem waitBus_sbdBusy (s : State) (us : Nat) : (s.waitBus us).sbdBusy = s.sbdBusy := by unfold waitBus; simp
@[simp] theorem waitBus_sbdT0 (s : State) (us : Nat) : (s.waitBus us).sbdT0 = s.sbdT0 := by unfold waitBus; simp
@[simp] theorem waitBus_sbdK (s : State) (us : Nat) : (s.waitBus us).sbdK = s.sbdK := by unfold waitBus; simp
@[simp] theorem waitBus_sbdS (s : State) (us : Nat) : (s.waitBus us).sbdS = s.sbdS := by unfold waitBus; simp
@[simp] theorem waitBus_ch (s : State) (us : Nat) : (s.waitBus us).ch = s.ch := by unfold waitBus; simp
@[simp] theorem waitBus_stepPin (s : State) (us : Nat) : (s.waitBus us).stepPin = s.stepPin := by unfold waitBus; simp
@[simp] theorem waitBus_eaState (s : State) (us : Nat) : (s.waitBus us).eaState = s.eaState := by unfold waitBus; simp
@[simp] theorem waitBus_eaAction (s : State) (us : Nat) : (s.waitBus us).eaAction = s.eaAction := by unfold waitBus; simp
@[simp] theorem waitBus_eaChannel (s : State) (us : Nat) : (s.waitBus us).eaChannel = s.eaChannel := by unfold waitBus; simp
@[simp] theorem waitBus_eaKey (s : State) (us : Nat) : (s.waitBus us).eaKey = s.eaKey := by unfold waitBus; simp
@[simp] theorem waitBus_assignedKey (s : State) (us : Nat) : (s.waitBus us).assignedKey = s.assignedKey := by unfold waitBus; simp
@[simp] theorem waitBus_rx (s : State) (us : Nat) : (s.waitBus us).rx = s.rx := by unfold waitBus; simp
@[simp] theorem waitBus_rxWave (s : State) (us : Nat) : (s.waitBus us).rxWave = s.rxWave := by unfold waitBus; simp
@[simp] theorem waitBus_pending (s : State) (us : Nat) : (s.waitBus us).pending = s.pending := by unfold waitBus; simp
@[simp] theorem waitBus_busDriver (s : State) (us : Nat) : (s.waitBus us).busDriver = s.busDriver := by unfold waitBus; simp
@[simp] theorem waitBus_freeCtr (s : State) (us : Nat) : (s.waitBus us).freeCtr = s.freeCtr := by unfold waitBus; simp
@[simp] theorem waitBus_busrOp (s : State) (us : Nat) : (s.waitBus us).busrOp = s.busrOp := by unfold waitBus; simp
@[simp] theorem waitBus_sbdOp (s : State) (us : Nat) : (s.waitBus us).sbdOp = s.sbdOp := by unfold waitBus; simp
@[simp] theorem waitBus_clientOp (s : State) (us : Nat) : (s.waitBus us).clientOp = s.clientOp := by unfold waitBus; simp
@[simp] theorem waitBus_clientResp (s : State) (us : Nat) : (s.waitBus us).clientResp = s.clientResp := by unfold waitBus; simp
@[simp] theorem waitBus_busrResp (s : State) (us : Nat) : (s.waitBus us).busrResp = s.busrResp := by unfold waitBus; simp
@[simp] theorem waitBus_sbdResp (s : State) (us : Nat) : (s.waitBus us).sbdResp = s.sbdResp := by unfold waitBus; simp
@[simp] theorem waitBus_trace (s : State) (us : Nat) : (s.waitBus us).trace = s.trace := by unfold waitBus; simp
theorem waitBus_busMark (s : State) (us : Nat) : (s.waitBus us).busMark = some (s.waitBus us).time := rfl
theorem time_le_waitBus (s : State) (us : Nat) : s.time ≤ (s.waitBus us).time := by
  unfold waitBus
  simp only [passDelay_time]
  cases s.busMark with
  | none => simp
  | some m => simp only; omega
theorem wait_le_waitBus (s : State) (us m : Nat) (h : s.busMark = some m) :
    m + us * s.cfg.ticksPerUs ≤ (s.waitBus us).time := by
  unfold waitBus
  simp only [passDelay_time, h]
  omega

end State

end Sys2Proof.Machine
end

