-- ==== Sys2Proof/Laws/Ring.lean ====
section
/-! SUPPORT. What the ring buffer operations can do, said once: one lemma per shared operation. -/

namespace Sys2Proof.Machine

open Sys2Proof

@[simp] theorem nextIndex_lt (c : Config) (r : RingId) (i : Nat) : nextIndex (slots c r) i < slots c r :=
  Nat.mod_lt _ (Nat.succ_pos _)

theorem staleIndex_lt (n held now lag : Nat) (h : 0 < n) : staleIndex n held now lag < n :=
  Nat.mod_lt _ h

/-! ### Distances around a buffer -/

/-- The distance from `a` to `b` without the remainder. -/
theorem ahead_eq {n a b : Nat} (ha : a < n) (hb : b < n) :
    ahead n a b = if a ≤ b then b - a else b + n - a := by
  unfold ahead
  split
  · rw [show b + n - a = (b - a) + n by omega, Nat.add_mod_right, Nat.mod_eq_of_lt (by omega)]
  · rw [Nat.mod_eq_of_lt (by omega)]

/-- The next index without the remainder. -/
theorem nextIndex_eq {n i : Nat} (hi : i < n) : nextIndex n i = if i + 1 = n then 0 else i + 1 := by
  unfold nextIndex
  split
  · rename_i h
    rw [h, Nat.mod_self]
  · rw [Nat.mod_eq_of_lt (by omega)]

theorem ahead_lt {n a b : Nat} (h : 0 < n) : ahead n a b < n := Nat.mod_lt _ h

theorem ahead_self {n a : Nat} (ha : a < n) : ahead n a a = 0 := by simp [ahead_eq ha ha]

theorem ahead_eq_zero {n a b : Nat} (ha : a < n) (hb : b < n) : ahead n a b = 0 ↔ a = b := by
  rw [ahead_eq ha hb]; split <;> omega

/-- Distances add up while they stay below one round. -/
theorem ahead_add {n a b c : Nat} (ha : a < n) (hb : b < n) (hc : c < n)
    (h : ahead n a b + ahead n b c < n) : ahead n a c = ahead n a b + ahead n b c := by
  rw [ahead_eq ha hb, ahead_eq hb hc] at *
  rw [ahead_eq ha hc]
  split_ifs at * <;> omega

/-- The enqueue's test (R121): the buffer seen from index `h` is full. -/
theorem nextIndex_eq_iff {n h t : Nat} (hh : h < n) (ht : t < n) :
    nextIndex n t = h ↔ ahead n h t = n - 1 := by
  rw [nextIndex_eq ht, ahead_eq hh ht]
  split_ifs <;> omega

/-- Moving the far index on by one adds one, below a full round. -/
theorem ahead_nextIndex_right {n a b : Nat} (ha : a < n) (hb : b < n) (h : ahead n a b + 1 < n) :
    ahead n a (nextIndex n b) = ahead n a b + 1 := by
  have hn : nextIndex n b < n := Nat.mod_lt _ (by omega)
  rw [ahead_eq ha hn, nextIndex_eq hb]
  rw [ahead_eq ha hb] at *
  split_ifs at * <;> omega

/-- Moving the near index on by one takes one away. -/
theorem ahead_nextIndex_left {n a b : Nat} (ha : a < n) (hb : b < n) (h : a ≠ b) :
    ahead n (nextIndex n a) b + 1 = ahead n a b := by
  have hn : nextIndex n a < n := Nat.mod_lt _ (by omega)
  rw [ahead_eq hn hb, nextIndex_eq ha, ahead_eq ha hb]
  split_ifs <;> omega

/-- Everything a stale view can be (R72): an index between what was held and what is now. -/
theorem staleIndex_between {n held now : Nat} (lag : Nat) (hh : held < n) (hn : now < n) :
    ahead n held (staleIndex n held now lag) + ahead n (staleIndex n held now lag) now =
      ahead n held now := by
  have hk : lag % (ahead n held now + 1) ≤ ahead n held now :=
    Nat.lt_succ_iff.mp (Nat.mod_lt _ (Nat.succ_pos _))
  unfold staleIndex
  generalize lag % (ahead n held now + 1) = k at *
  rw [ahead_eq hh hn] at *
  have hm : (held + k) % n = if held + k < n then held + k else held + k - n := by
    split
    · exact Nat.mod_eq_of_lt ‹_›
    · rw [Nat.mod_eq_sub_mod (by omega), Nat.mod_eq_of_lt (by split at hk <;> omega)]
  have hs : (held + k) % n < n := Nat.mod_lt _ (by omega)
  rw [ahead_eq hh hs, ahead_eq hs hn, hm]
  split_ifs at * <;> omega

/-! ### Reads of the other side's index -/

/-- Under `RB_VIEW = IMMEDIATE` the producer reads the present `head` and nothing changes (R71). -/
theorem readHead_immediate {s : State} (h : s.cfg.rbView = .immediate) (r : RingId) :
    readHead r s = ((s.ring r).head, s) := by
  unfold readHead; rw [h]

/-- Under `RB_VIEW = IMMEDIATE` the consumer reads the present `tail` and nothing changes (R71). -/
theorem readTail_immediate {s : State} (h : s.cfg.rbView = .immediate) (r : RingId) :
    readTail r s = ((s.ring r).tail, s) := by
  unfold readTail; rw [h]

/-- What reading `head` can do: nothing, or (R72) note what it saw and what it could have seen at the
latest, and use up one free value. -/
theorem readHead_cases (r : RingId) (s : State) :
    readHead r s = ((s.ring r).head, s) ∨
    ∃ h, readHead r s =
      (h, (s.setRing r { s.ring r with seenHead := h, heldHead := (s.ring r).head }).useFree) ∧
      h = staleIndex (s.slotsOf r) (s.ring r).heldHead (s.ring r).head (Config.staleLag s.freeCtr) := by
  unfold readHead
  cases s.cfg.rbView with
  | immediate => exact .inl rfl
  | stale => exact .inr ⟨_, rfl, rfl⟩

/-- What reading `tail` can do: nothing, or (R72) note what it saw and what it could have seen at the
latest, and use up one free value. -/
theorem readTail_cases (r : RingId) (s : State) :
    readTail r s = ((s.ring r).tail, s) ∨
    ∃ t, readTail r s =
      (t, (s.setRing r { s.ring r with seenTail := t, heldTail := (s.ring r).tail }).useFree) ∧
      t = staleIndex (s.slotsOf r) (s.ring r).heldTail (s.ring r).tail (Config.staleLag s.freeCtr) := by
  unfold readTail
  cases s.cfg.rbView with
  | immediate => exact .inl rfl
  | stale => exact .inr ⟨_, rfl, rfl⟩

/-- Everything RB.ENQ can do (R121): refuse the byte, or store it in cell `tail` and publish. -/
theorem enqueue_cases {r : RingId} {b : Byte} {s s' : State} {ok : Bool}
    (h : enqueue r b s = .ok (ok, s')) :
    (ok = false ∧ nextIndex (s.slotsOf r) (s.ring r).tail = (readHead r s).1 ∧
      s' = (readHead r s).2.drop (.rbFull r b)) ∨
    (ok = true ∧ nextIndex (s.slotsOf r) (s.ring r).tail ≠ (readHead r s).1 ∧
      ∃ s4, writeCell r (s.ring r).tail b (readHead r s).2 = .ok s4 ∧
        s' = publishTail r (nextIndex (s.slotsOf r) (s.ring r).tail) s4) := by
  unfold enqueue at h
  simp only at h
  split at h
  · rename_i hn
    simp only [Except.ok.injEq, Prod.mk.injEq] at h
    exact .inl ⟨h.1.symm, hn, h.2.symm⟩
  · rename_i hn
    split at h
    · rename_i s4 hw
      simp only [Except.ok.injEq, Prod.mk.injEq] at h
      exact .inr ⟨h.1.symm, hn, s4, hw, h.2.symm⟩
    · simp at h

/-- Everything RB.DEQ can do (R122): find nothing, or take the byte of cell `head` and publish. -/
theorem dequeue_cases {r : RingId} {s s' : State} {x : Option Byte}
    (h : dequeue r s = .ok (x, s')) :
    (x = none ∧ (s.ring r).head = (readTail r s).1 ∧ s' = (readTail r s).2) ∨
    (∃ v, x = some v ∧ (s.ring r).head ≠ (readTail r s).1 ∧
      readCell r (s.ring r).head (readTail r s).2 = .ok v ∧
      s' = publishHead r (s.ring r).head v (readTail r s).2) := by
  unfold dequeue at h
  simp only at h
  split at h
  · rename_i hn
    simp only [Except.ok.injEq, Prod.mk.injEq] at h
    exact .inl ⟨h.1.symm, hn, h.2.symm⟩
  · rename_i hn
    split at h
    · rename_i v hv
      simp only [Except.ok.injEq, Prod.mk.injEq] at h
      exact .inr ⟨v, h.1.symm, hn, hv, h.2.symm⟩
    · simp at h

/-- Writing a cell either faults on an index outside the buffer or writes that cell. -/
theorem writeCell_cases {r : RingId} {i : Nat} {b : Byte} {s s' : State}
    (h : writeCell r i b s = .ok s') :
    i < s.slotsOf r ∧ s' = s.setRing r { s.ring r with buf := (s.ring r).buf.write i b } := by
  unfold writeCell at h
  split at h
  · rename_i hi
    simp only [Except.ok.injEq] at h
    exact ⟨hi, h.symm⟩
  · simp at h

/-- RB.ENQ under `IMMEDIATE` with room: the byte is stored and `tail` published (R121). -/
theorem enqueue_immediate_room {r : RingId} {b : Byte} {s : State}
    (hv : s.cfg.rbView = .immediate) (ht : (s.ring r).tail < s.slotsOf r)
    (hroom : nextIndex (s.slotsOf r) (s.ring r).tail ≠ (s.ring r).head) :
    enqueue r b s = .ok (true, s.setRing r { s.ring r with
      buf := (s.ring r).buf.write (s.ring r).tail b
      tail := nextIndex (s.slotsOf r) (s.ring r).tail }) := by
  unfold enqueue
  simp only [readHead_immediate hv, if_neg hroom, writeCell, if_pos ht, publishTail,
    State.ring_setRing, State.setRing_setRing]

/-- RB.ENQ under `IMMEDIATE` on a full buffer: the newest byte is dropped (R121, R126). -/
theorem enqueue_immediate_full {r : RingId} {b : Byte} {s : State}
    (hv : s.cfg.rbView = .immediate)
    (hfull : nextIndex (s.slotsOf r) (s.ring r).tail = (s.ring r).head) :
    enqueue r b s = .ok (false, s.drop (.rbFull r b)) := by
  unfold enqueue
  simp only [readHead_immediate hv, if_pos hfull]

/-- RB.DEQ under `IMMEDIATE` on a buffer that holds a byte (R122). -/
theorem dequeue_immediate_some {r : RingId} {s : State}
    (hv : s.cfg.rbView = .immediate) (hh : (s.ring r).head < s.slotsOf r)
    (hne : (s.ring r).head ≠ (s.ring r).tail) :
    dequeue r s = .ok (some ((s.ring r).buf.read (s.ring r).head),
      publishHead r (s.ring r).head ((s.ring r).buf.read (s.ring r).head) s) := by
  unfold dequeue
  simp only [readTail_immediate hv, if_neg hne, readCell, if_pos hh]

/-- RB.DEQ under `IMMEDIATE` on an empty buffer (R122). -/
theorem dequeue_immediate_none {r : RingId} {s : State}
    (hv : s.cfg.rbView = .immediate) (he : (s.ring r).head = (s.ring r).tail) :
    dequeue r s = .ok (none, s) := by
  unfold dequeue
  simp only [readTail_immediate hv, if_pos he]

/-- RB.EMPTY under `IMMEDIATE` (R123). -/
theorem testEmpty_immediate {r : RingId} {s : State} (hv : s.cfg.rbView = .immediate) :
    testEmpty r s = ((s.ring r).isEmpty, s) := by
  unfold testEmpty
  simp only [readTail_immediate hv, Ring.isEmpty]

end Sys2Proof.Machine
end

