-- ==== Sys2Proof/Laws/Bus.lean ====
section
/-! SUPPORT. What the shared operations of the bus and the outcomes they are made of can do, said once:
one lemma per operation. -/

namespace Sys2Proof.Machine

open Sys2Proof

/-! ### Outcomes -/

/-- A sequence answers a next state only if both parts do. -/
theorem andThen_next {o : Out} {f : State → Out} {t : State} (h : andThen o f = .next t) :
    ∃ s, o = .next s ∧ f s = .next t := by
  cases o with
  | next s => exact ⟨s, rfl, h⟩
  | fault x => simp [andThen] at h
  | refused x => simp [andThen] at h

/-- What one round keeps, a whole round of `forEach` keeps. -/
theorem forEach_keeps {α : Type} {P : State → Prop} {f : α → State → Out}
    (hf : ∀ a s t, P s → f a s = .next t → P t) :
    ∀ (l : List α) (s t : State), P s → forEach f l s = .next t → P t := by
  intro l
  induction l with
  | nil =>
    intro s t hs h
    simp only [forEach, Host.Outcome.next.injEq] at h
    exact h ▸ hs
  | cons a rest ih =>
    intro s t hs h
    obtain ⟨u, h1, h2⟩ := andThen_next h
    exact ih u t (hf a s u hs h1) h2

/-- An ignored enqueue answers the state of the enqueue. -/
theorem enqueueIgnoring_next {r : RingId} {b : Byte} {s t : State}
    (h : enqueueIgnoring r b s = .next t) : ∃ ok, enqueue r b s = .ok (ok, t) := by
  unfold enqueueIgnoring at h
  split at h
  · rename_i ok s' he
    simp only [Host.Outcome.next.injEq] at h
    exact ⟨ok, h ▸ he⟩
  · simp at h

/-! ### Waits -/

/-- A wait of the bus writer changes the time, the mark and the delays, and nothing else. -/
theorem State.waitBus_eq (s : State) (us : Nat) :
    s.waitBus us = { s with
      time := (s.waitBus us).time, busMark := some (s.waitBus us).time, delays := s.delays.tail } := by
  ext1 <;> simp [State.passDelay_delays, State.waitBus]

/-! ### The writer's micro-steps -/

/-- Everything BUSW.DRIVE can do (R142). -/
theorem drive_next {b : Byte} {s t : State} (h : drive b s = .next t) :
    s.busDriver ≠ .remote ∧ s.buswPhase = .idle ∧ s.clk = false ∧
      t = { s.waitBus s.cfg.tGap with d := b, buswPhase := .driven, busDriver := .this } := by
  unfold drive at h
  split at h
  · simp at h
  · rename_i hd
    split at h
    · rename_i hc
      simp only [Host.Outcome.next.injEq] at h
      obtain ⟨hr, hk⟩ := not_or.1 hd
      exact ⟨hr, hc, by simpa using hk, h.symm⟩
    · simp at h

/-- Everything BUSW.ASSERT can do (R143). -/
theorem assertClock_next {s t : State} (h : assertClock s = .next t) :
    s.buswPhase = .driven ∧
      t = edgeIfListening (State.emit { s.waitBus s.cfg.tSetup with
        clk := true, buswPhase := .asserted } (.busByte s.d)) := by
  unfold assertClock at h
  split at h
  · rename_i hp
    simp only [Host.Outcome.next.injEq] at h
    exact ⟨hp, h.symm⟩
  · simp at h

/-- Everything BUSW.DEASSERT can do (R144). -/
theorem deassertClock_next {s t : State} (h : deassertClock s = .next t) :
    s.buswPhase = .asserted ∧
      t = { s.waitBus s.cfg.tHold with clk := false, buswPhase := .idle } := by
  unfold deassertClock at h
  split at h
  · rename_i hp
    simp only [Host.Outcome.next.injEq] at h
    exact ⟨hp, h.symm⟩
  · simp at h

/-- Everything the remote writer's drive can do (R13, R142). -/
theorem remoteDrive_next {b : Byte} {s t : State} (h : remoteDrive b s = .next t) :
    s.busDriver ≠ .this ∧ s.clk = false ∧ t = { s with d := b, busDriver := .remote } := by
  unfold remoteDrive at h
  split at h
  · simp at h
  · rename_i hd
    obtain ⟨hr, hk⟩ := not_or.1 hd
    simp only [Host.Outcome.next.injEq] at h
    exact ⟨hr, by simpa using hk, h.symm⟩

/-- Everything the remote writer's clock can do (R156). -/
theorem remoteClock_next {l : Bool} {s t : State} (h : remoteClock l s = .next t) :
    s.busDriver ≠ .this ∧
      (t = { s with clk := l, busDriver := .remote } ∨
        l = true ∧ s.clk = false ∧ t = edgeIfListening { s with clk := l, busDriver := .remote }) := by
  unfold remoteClock at h
  split at h
  · simp at h
  · rename_i hd
    simp only [Host.Outcome.next.injEq] at h
    refine ⟨hd, ?_⟩
    split at h
    · rename_i hl
      simp only [Bool.and_eq_true, Bool.not_eq_eq_eq_not, Bool.not_true] at hl
      exact .inr ⟨hl.1, hl.2, h.symm⟩
    · exact .inl h.symm

/-! ### The reader -/

/-- Everything an edge can do at a unit (R156): nothing, the pending bit, or the pending bit and a
drop. -/
theorem edgeIfListening_cases (s : State) :
    edgeIfListening s = s ∨ edgeIfListening s = { s with irqPending := true } ∨
      edgeIfListening s = { s.drop .lostEdge with irqPending := true } := by
  unfold edgeIfListening clockEdge
  split
  · split
    · exact .inr (.inr rfl)
    · exact .inr (.inl rfl)
  · exact .inl rfl

/-- Everything BUSR.SERVICE can do (R157). -/
theorem serviceBus_next {s t : State} (h : serviceBus s = .next t) :
    s.irqPending = true ∧ ∃ ok, enqueue .bus s.d { s with irqPending := false } = .ok (ok, t) := by
  unfold serviceBus at h
  split at h
  · rename_i hi
    exact ⟨hi, enqueueIgnoring_next h⟩
  · simp at h

/-- With no enqueue in progress there is nothing to complete. -/
theorem completeEnq_none {r : RingId} {s : State} (h : s.enqOp r = none) :
    completeEnq r s = .next s := by
  unfold completeEnq enqMicros
  rw [h]
  rfl

end Sys2Proof.Machine
end

