-- ==== Sys2Proof/Laws/PerInstr.lean ====
section
/-! SUPPORT. The per-instruction families. `UnitLength`: the unit an instruction is presented as has the
length of its format (spec/30_encoding.md R90). -/

namespace Sys2Proof.Laws

open Sys2Proof

/-- The number of bytes of a unit of each format (R90; a `LABEL` with its operands and the ten slots of
`SER10` as notes/assumptions/9.md lays them out). -/
def formatLength : Format → Nat
  | .label => 5
  | .byte8 => 1
  | .framed8 => 1
  | .ser10 => 2
  | .pkt24 => 3
  | .rdy8 => 1
  | .evt24 => 3
  | .evt8 => 1

namespace UnitLength

/-- Under every configuration the instruction is presented as a unit of its format's length. -/
def Statement (i : Instr) : Prop :=
  ∀ c : Config, (encode c i).bytes.length = formatLength (encode c i).format

theorem rbEnq (r : RingId) (b : Byte) : Statement (.rbEnq r b) := fun _ => rfl
theorem rbDeq (r : RingId) : Statement (.rbDeq r) := fun _ => rfl
theorem rbEmpty (r : RingId) : Statement (.rbEmpty r) := fun _ => rfl
theorem busWrite (b : Byte) : Statement (.busWrite b) := fun _ => rfl
theorem buswDrive (b : Byte) : Statement (.buswDrive b) := fun _ => rfl
theorem buswAssert : Statement .buswAssert := fun _ => rfl
theorem buswDeassert : Statement .buswDeassert := fun _ => rfl
theorem busSendpkt (f1 f2 : Byte) : Statement (.busSendpkt f1 f2) := fun _ => rfl
theorem busSendready : Statement .busSendready := fun _ => rfl
theorem busrEdge : Statement .busrEdge := fun _ => rfl
theorem busrService : Statement .busrService := fun _ => rfl
theorem busHasdata : Statement .busHasdata := fun _ => rfl
theorem busRead : Statement .busRead := fun _ => rfl
theorem pfStep : Statement .pfStep := fun _ => rfl
theorem sbdStart : Statement .sbdStart := fun _ => rfl
theorem sbdSample (k : Fin 10) : Statement (.sbdSample k) := fun _ => rfl
theorem sbdFinish : Statement .sbdFinish := fun _ => rfl
theorem sbdFrame (slots : Slots) : Statement (.sbdFrame slots) := fun _ => rfl
theorem eaByte (b : Byte) : Statement (.eaByte b) := fun _ => rfl
theorem vaEvent (e : NoteEvent) : Statement (.vaEvent e) := fun _ => rfl
theorem ssPacket (f1 f2 : Byte) : Statement (.ssPacket f1 f2) := fun _ => rfl
theorem ssCheck (c : Byte) : Statement (.ssCheck c) := fun _ => rfl
theorem ssLoop : Statement .ssLoop := fun _ => rfl
theorem byte (b : Byte) : Statement (.byte b) := fun _ => rfl
theorem serData (slots : Slots) : Statement (.serData slots) := fun _ => rfl
theorem serKeepalive (start stop : Bool) : Statement (.serKeepalive start stop) := fun _ => rfl
theorem pktOn (n c : Byte) : Statement (.pktOn n c) := fun _ => rfl
theorem pktOff (c : Byte) : Statement (.pktOff c) := fun _ => rfl
theorem rdy : Statement .rdy := fun _ => rfl
theorem busbytePreReady (b : Byte) : Statement (.busbytePreReady b) := fun _ => rfl
theorem busbyteStart : Statement .busbyteStart := fun _ => rfl
theorem busbyteUnsync (b : Byte) : Statement (.busbyteUnsync b) := fun _ => rfl
theorem busbyteField1 (b : Byte) : Statement (.busbyteField1 b) := fun _ => rfl
theorem busbyteField2 (b : Byte) : Statement (.busbyteField2 b) := fun _ => rfl
theorem evtNoteon (h : Nibble) (k v : Byte) : Statement (.evtNoteon h k v) := fun _ => rfl
theorem evtNoteoff (h : Nibble) (k v : Byte) : Statement (.evtNoteoff h k v) := fun _ => rfl
theorem evtOther (a h : Nibble) (k v : Byte) : Statement (.evtOther a h k v) := fun _ => rfl
theorem evtSeqdiscard (a h : Nibble) : Statement (.evtSeqdiscard a h) := fun _ => rfl

end UnitLength

end Sys2Proof.Laws
end

