-- ==== Sys2Proof/Laws/Units.lean ====
section
/-! SUPPORT. What the shared operations of the serial decoder, the framer, the assembler, the allocator,
the scheduler and the environment can do, said once: one lemma per operation. -/

namespace Sys2Proof.Machine

open Sys2Proof

/-! ### Serial bit decoder -/

/-- A start edge either finds the decoder busy or begins a frame (R186). -/
theorem startFrame_cases (s : State) :
    (s.sbdBusy = true ∧ startFrame s = s) ∨
      (s.sbdBusy = false ∧ startFrame s = { s with sbdBusy := true, sbdT0 := s.time, sbdK := 0 }) := by
  unfold startFrame
  split
  · exact .inl ⟨‹_›, rfl⟩
  · exact .inr ⟨by simpa using ‹¬s.sbdBusy = true›, rfl⟩

/-- Everything SBD.FINISH can do once enabled (R188, R190). -/
theorem finishFrame_next {s t : State} (h : finishFrame s = .next t) :
    (packData s.sbdS = s.cfg.keepaliveByte ∧
      t = endHandler .ser (s.drop (.keepalive (packData s.sbdS)))) ∨
    (packData s.sbdS ≠ s.cfg.keepaliveByte ∧
      ∃ ok u, enqueue .ser (packData s.sbdS) s = .ok (ok, u) ∧ t = endHandler .ser u) := by
  unfold finishFrame at h
  simp only at h
  split at h
  · rename_i hk
    simp only [Host.Outcome.next.injEq] at h
    exact .inl ⟨hk, h.symm⟩
  · rename_i hk
    obtain ⟨u, h1, h2⟩ := andThen_next h
    obtain ⟨ok, he⟩ := enqueueIgnoring_next h1
    simp only [Host.Outcome.next.injEq] at h2
    exact .inr ⟨hk, ok, u, he, h2.symm⟩

/-- A whole frame needs an armed decoder (R192). -/
theorem wholeFrame_next {w : Slots} {s t : State} (h : wholeFrame w s = .next t) :
    s.sbdBusy = false ∧ finishFrame (loadFrame w s) = .next t := by
  unfold wholeFrame at h
  split at h
  · simp at h
  · rename_i hb
    exact ⟨by simpa using hb, h⟩

/-! ### Framer -/

/-- The framer meets a byte: the six rows of R103. -/
theorem frameByte_cases (v : Byte) (s : State) :
    (s.pfState = .waitReady ∧ v = s.cfg.readyByte ∧ frameByte v s = (none, { s with pfState := .idle })) ∨
    (s.pfState = .waitReady ∧ v ≠ s.cfg.readyByte ∧ frameByte v s = (none, s.drop (.preReady v))) ∨
    (s.pfState = .idle ∧ v = s.cfg.startSentinel ∧
      frameByte v s = (none, { s with pfState := .gotStart })) ∨
    (s.pfState = .idle ∧ v ≠ s.cfg.startSentinel ∧ frameByte v s = (none, s.drop (.unsync v))) ∨
    (s.pfState = .gotStart ∧ frameByte v s = (none, { s with pfF1 := v, pfState := .gotF1 })) ∨
    (s.pfState = .gotF1 ∧
      frameByte v s = (some (s.pfF1, v), { s.emit (.packet s.pfF1 v) with pfState := .idle })) := by
  unfold frameByte
  cases hp : s.pfState with
  | waitReady => by_cases hv : v = s.cfg.readyByte <;> simp [hv]
  | idle => by_cases hv : v = s.cfg.startSentinel <;> simp [hv]
  | gotStart => simp
  | gotF1 => simp

/-! ### Assembler -/

/-- The assembler meets a byte: it opens a frame, discards the byte, takes the key, or completes the
event (R207 to R210). -/
theorem assemble_cases (b : Byte) (s : State) :
    (s.eaState = .awaitingAction ∧
      (s.cfg.mode = .live ∨ isNoteCode (actionCode b) = true) ∧ assemble b s = (none, openFrame b s)) ∨
    (s.eaState = .awaitingAction ∧ s.cfg.mode = .sequenced ∧ isNoteCode (actionCode b) = false ∧
      assemble b s = (none, s.drop (.seqFrame b))) ∨
    (s.eaState = .awaitingKey ∧
      assemble b s = (none, { s with eaKey := eventField s b, eaState := .awaitingVelocity })) ∨
    (s.eaState = .awaitingVelocity ∧
      assemble b s =
        (some ⟨s.eaAction, s.eaChannel, s.eaKey, eventField s b⟩,
          { s.emit (.event ⟨s.eaAction, s.eaChannel, s.eaKey, eventField s b⟩) with
            eaState := .awaitingAction })) := by
  unfold assemble
  cases hs : s.eaState with
  | awaitingAction =>
    cases hm : s.cfg.mode with
    | live => simp
    | sequenced => cases hc : isNoteCode (actionCode b) <;> simp
  | awaitingKey => simp
  | awaitingVelocity => simp

/-! ### Allocator -/

/-- The scan finds the lowest channel that holds the key (R222, R223). -/
theorem firstHolding_some {k : Byte} {i : Nat} {s : State} (h : firstHolding k s = some i) :
    i < s.cfg.nCh ∧ s.assignedKey[i]? = some k ∧ ∀ j, j < i → s.assignedKey[j]? ≠ some k := by
  unfold firstHolding at h
  rw [List.find?_range_eq_some] at h
  simpa [and_assoc, and_left_comm] using h

/-- The scan finds nothing only if no channel holds the key. -/
theorem firstHolding_none {k : Byte} {s : State} (h : firstHolding k s = none) :
    ∀ i, i < s.cfg.nCh → s.assignedKey[i]? ≠ some k := by
  unfold firstHolding at h
  rw [List.find?_range_eq_none] at h
  intro i hi hk
  simpa [hk] using h i hi

/-- A mapped channel is written, or there is no such channel (R226). -/
theorem assignMapped_next {k : Byte} {m : Nat} {s t : State} (h : assignMapped k m s = .next t) :
    m < s.assignedKey.length ∧ t = assignKey m k s := by
  unfold assignMapped at h
  split at h
  · rename_i hm
    simp only [Host.Outcome.next.injEq] at h
    exact ⟨hm, h.symm⟩
  · simp at h

/-! ### Scheduler -/

/-- Everything SS.PACKET can do (R241 to R244). -/
theorem intake_next {f1 f2 : Byte} {s t : State} (h : intake f1 f2 s = .next t) :
    t = s.drop (.pktRange f1 f2) ∨
    (f1 = s.cfg.offSentinel ∧ ∃ k, s.ch[f2.toNat]? = some k ∧
      t = setChannel f2.toNat { k with active := false } s) ∨
    (f1 ≠ s.cfg.offSentinel ∧ ∃ d, s.cfg.intervalUs[f1.toNat]? = some d ∧
      t = activate f2.toNat d s) := by
  unfold intake at h
  split at h
  · simp only [Host.Outcome.next.injEq] at h
    exact .inl h.symm
  · split at h
    · rename_i hf
      split at h
      · rename_i k hk
        simp only [Host.Outcome.next.injEq] at h
        exact .inr (.inl ⟨hf, k, hk, h.symm⟩)
      · simp at h
    · rename_i hf
      split at h
      · simp only [Host.Outcome.next.injEq] at h
        exact .inl h.symm
      · rename_i d hd
        split at h
        · simp only [Host.Outcome.next.injEq] at h
          exact .inr (.inr ⟨hf, d, hd, h.symm⟩)
        · simp at h

/-- Everything SS.CHECK can do (R245): one pulse, or nothing. -/
theorem check_next {c : Nat} {s t : State} (h : check c s = .next t) :
    ∃ k, s.ch[c]? = some k ∧
      ((k.active = true ∧ k.deadline < s.now ∧
        t = setChannel c { k with deadline := k.deadline + k.interval } (pulse c s.now s)) ∨
      (¬ (k.active = true ∧ k.deadline < s.now) ∧ t = s)) := by
  unfold check at h
  split at h
  · simp at h
  · rename_i k hk
    refine ⟨k, hk, ?_⟩
    split at h
    · rename_i hc
      simp only [Host.Outcome.next.injEq] at h
      exact .inl ⟨hc.1, hc.2, h.symm⟩
    · rename_i hc
      simp only [Host.Outcome.next.injEq] at h
      exact .inr ⟨hc, h.symm⟩

/-- A pulse leaves every step pin that was low as it was (R34). -/
theorem pulse_stepPin {c t n : Nat} {s : State} (h : s.stepPin = List.replicate n false) :
    (pulse c t s).stepPin = List.replicate n false := by
  simp only [pulse, State.emit_stepPin, List.set_set, h]
  apply List.ext_getElem?
  intro i
  simp only [List.getElem?_set, List.length_replicate, List.getElem?_replicate]
  split <;> simp_all

/-! ### Environment -/

/-- The time only grows (R41). -/
theorem setTime_next {n : Nat} {s t : State} (h : setTime n s = .next t) :
    s.time ≤ n ∧ t = { s with time := n } := by
  unfold setTime at h
  split at h
  · simp at h
  · simp only [Host.Outcome.next.injEq] at h
    exact ⟨by omega, h.symm⟩

/-- A fetched instruction that answers a next state was decoded and kept the discipline. -/
theorem fetchAnd_next {run : Instr → State → Out} {a : Agent} {u : WireUnit} {s t : State}
    (h : fetchAnd run a u s = .next t) :
    ∃ i, decode s.context u = .ok i ∧ discipline a i s = none ∧ run i s = .next t := by
  unfold fetchAnd at h
  split at h
  · simp at h
  · rename_i i hi
    split at h
    · simp at h
    · rename_i hd
      exact ⟨i, hi, hd, h⟩

/-- The discipline holds of the performer of an operation only, between its operations (R69, R278), and
of no direct access to `RB_BUS` by either side (R22, R158). -/
theorem discipline_none {a : Agent} {i : Instr} {s : State} (h : discipline a i s = none) :
    performer i = a ∧ isDirectBusEnqueue i = false ∧ isDirectBusRead i = false ∧
      isBusy a i s = false := by
  unfold discipline at h
  split at h
  · simp at h
  · rename_i hp
    split at h
    · simp at h
    · rename_i he
      split at h
      · simp at h
      · rename_i hd
        split at h
        · simp at h
        · rename_i hb
          exact ⟨by simpa using hp, by simpa using he, by simpa using hd, by simpa using hb⟩

/-- The discipline stops a request by R268's reason for R69, but for the consumer port of `RB_BUS` (R22),
whose request names no step. -/
theorem discipline_some {a : Agent} {i : Instr} {s : State} {x : Refusal}
    (h : discipline a i s = some x) :
    x = .spscViolation ∨ (x = .noStep .notReachable ∧ isDirectBusRead i = true) := by
  unfold discipline at h
  split at h
  · exact .inl (by simpa using h.symm)
  · split at h
    · exact .inl (by simpa using h.symm)
    · split at h
      · exact .inr ⟨by simpa using h.symm, by assumption⟩
      · split at h
        · exact .inl (by simpa using h.symm)
        · simp at h

/-- Everything a drive by the bus writer can do (R142, R13): this unit's own or the remote writer's. -/
theorem driveBy_next {a : Agent} {b : Byte} {s t : State} (h : driveBy a b s = .next t) :
    (a = .client ∧ s.clientOp = none ∧ execBuswDrive b s = .next t) ∨
      (a = .env ∧ remoteDrive b s = .next t) := by
  cases a with
  | client =>
    unfold driveBy at h
    simp only at h
    split at h
    · simp at h
    · rename_i hd
      refine .inl ⟨rfl, ?_, h⟩
      simpa [isBusy, isBusStep] using (discipline_none hd).2.2.2
  | env => exact .inr ⟨rfl, h⟩
  | busr => simp [driveBy] at h
  | sbd => simp [driveBy] at h

/-- Everything a drive at the instant of the sample can do (U3): the drive itself, the pending bit
cleared, one free value used, and the enqueue begun. -/
theorem sampleDuringDrive_next {a : Agent} {b : Byte} {s t : State}
    (h : sampleDuringDrive a b s = .next t) :
    s.irqPending = true ∧ s.busrOp = none ∧ ∃ u, driveBy a b s = .next u ∧
      t = beginEnq .bus (mixLines s.d b (Config.raceMask s.freeCtr)) .handler
        (State.useFree { u with irqPending := false }) := by
  unfold sampleDuringDrive at h
  split at h
  · simp at h
  · rename_i ho
    split at h
    · rename_i hi
      obtain ⟨u, hu, ht⟩ := andThen_next h
      simp only [Host.Outcome.next.injEq] at ht
      exact ⟨hi, by simpa using ho, u, hu, ht.symm⟩
    · simp at h

/-! ### Quiescence -/

/-- Whether a unit is an input does not depend on the framer's state (R324). -/
theorem isInputUnit_context (c : Config) (p q : PfState) (u : WireUnit) :
    isInputUnit ⟨c, p⟩ u = isInputUnit ⟨c, q⟩ u := by
  have framed : ∀ (r : PfState) (b : Byte), isInput c.mode (decodeFramed ⟨c, r⟩ b) = true := by
    intro r b
    cases r <;> simp only [decodeFramed] <;> (try split) <;> rfl
  obtain ⟨f, bs⟩ := u
  rcases bs with _ | ⟨b1, _ | ⟨b2, _ | ⟨b3, _ | ⟨b4, _ | ⟨b5, _ | ⟨b6, bs⟩⟩⟩⟩⟩⟩ <;> cases f <;>
    first
    | rfl
    | simp [isInputUnit, decode, framed]

/-- In sequenced mode an event's bytes are no input: they come from the sequence source (R206, R324). -/
theorem isInputUnit_event_sequenced {x : DecodeContext} (h : x.cfg.mode = .sequenced) (bs : List Byte) :
    isInputUnit x ⟨.evt24, bs⟩ = false ∧ isInputUnit x ⟨.evt8, bs⟩ = false := by
  have event : ∀ a k v, isInput .sequenced (decodeEvent a k v) = false := by
    intro a k v
    simp only [decodeEvent]
    (repeat' split) <;> rfl
  rcases bs with _ | ⟨b1, _ | ⟨b2, _ | ⟨b3, _ | ⟨b4, bs⟩⟩⟩⟩ <;>
    simp [isInputUnit, decode, h, event]
  cases isNoteCode (actionCode b1) <;> rfl

end Sys2Proof.Machine
end

