-- ==== Sys2Proof/Tests/Slice0.lean ====
section
/-! SUPPORT. Tests on fixed values: each expected result is the spec's (the vector or rule named), never
the model's own answer; then one witness for each statement that has hypotheses. -/

namespace Sys2Proof.Tests

open Sys2Proof Sys2Proof.Machine

/-! ### Helpers -/

/-- The outcome is a next state with property `p`. -/
def runs (o : Out) (p : State → Bool) : Bool :=
  match o with
  | .next s => p s
  | .fault _ => false
  | .refused _ => false

/-- The outcome is this refusal. -/
def refuses (o : Out) (r : Refusal) : Bool :=
  match o with
  | .next _ => false
  | .fault _ => false
  | .refused x => x == r

/-- `CFG_REF` with ring buffers of three bytes (four cells), as in vectors V-RB1 to V-RB9. -/
def cfgSmall : Config := { cfgRef with rbBusCap := 3, rbSerCap := 3 }

/-- The small configuration in sequenced mode. -/
def cfgSeq : Config := { cfgSmall with mode := .sequenced }

/-- The small configuration with stale views. -/
def cfgStale : Config := { cfgSmall with rbView := .stale }

/-- Reset in the small configuration. -/
def small : State := State.resetWith cfgSmall 0 true

/-- The small state with `RB_SER` at head `h` and tail `t`, its cells 0x11, 0x22, 0x33, 0x44. -/
def serAt (h t : Nat) : State :=
  { small with rbSer := ⟨[(0, 0x11#8), (1, 0x22#8), (2, 0x33#8), (3, 0x44#8)], h, t, h, t, h, t⟩ }

/-- The small state with `RB_BUS` at head `h` and tail `t`, its cells 0x11, 0x22, 0x33, 0x44. -/
def busAt (h t : Nat) : State :=
  { small with rbBus := ⟨[(0, 0x11#8), (1, 0x22#8), (2, 0x33#8), (3, 0x44#8)], h, t, h, t, h, t⟩ }

/-- The small state at `us` microseconds. -/
def atUs (us : Nat) (s : State) : State := { s with time := us * s.cfg.ticksPerUs }

/-- Channel 2 active with interval 3822 and deadline 13822 (V-SS6, V-SS8 to V-SS12). -/
def ch2 : State := { small with ch := small.ch.set 2 ⟨true, 3822, 13822⟩ }

/-- The allocator's pool with the given keys in channels 0, 1, 2. -/
def keys (a b c : Byte) : State :=
  { small with assignedKey := [a, b, c, 0x80#8, 0x80#8, 0x80#8, 0x80#8, 0x80#8] }

/-- Every channel of the pool busy. -/
def allBusy : State := { small with assignedKey := List.replicate 8 60#8 }

/-- The same state in sequenced mode. -/
def seqMode (s : State) : State := { s with cfg := cfgSeq }

/-- The same state with stale views. -/
def staleView (s : State) : State := { s with cfg := cfgStale }

/-! ### WellFormed: an ill-formed term for each check -/

/-- An Other event carries the off-sentinel in both fields (R205). -/
theorem test_wf_other_event : (Instr.vaEvent ⟨.other, 0#4, 0x80#8, 0#8⟩).wf cfgRef = false := by decide
/-- A NoteOn key is at most 127 (R205). -/
theorem test_wf_noteon_key : (Instr.vaEvent ⟨.noteOn, 0#4, 128#8, 0#8⟩).wf cfgRef = false := by decide
/-- A NoteOff velocity is at most 127 (R205). -/
theorem test_wf_noteoff_velocity : (Instr.vaEvent ⟨.noteOff, 0#4, 0#8, 128#8⟩).wf cfgRef = false := by
  decide
/-- The operand of SS.CHECK is below `N_CH` (R61). -/
theorem test_wf_sscheck : (Instr.ssCheck 8#8).wf cfgRef = false := by decide
/-- A data frame does not carry the keep-alive value (R101). -/
theorem test_wf_serdata : (Instr.serData 0b0011111111#10).wf cfgRef = false := by decide
/-- PKT.ON excludes the off-sentinel (R94). -/
theorem test_wf_pkton : (Instr.pktOn 0x80#8 0#8).wf cfgRef = false := by decide
/-- The ready byte is no discarded byte of `WAIT_READY` (R103). -/
theorem test_wf_preready : (Instr.busbytePreReady 0xAA#8).wf cfgRef = false := by decide
/-- The start sentinel is no discarded byte of `IDLE` (R103). -/
theorem test_wf_unsync : (Instr.busbyteUnsync 0xFF#8).wf cfgRef = false := by decide
/-- A note code is no Other action (R100). -/
theorem test_wf_evtother : (Instr.evtOther 9#4 0#4 0#8 0#8).wf cfgRef = false := by decide
/-- A note code is not discarded in sequenced mode (R208). -/
theorem test_wf_evtseqdiscard : (Instr.evtSeqdiscard 8#4 0#4).wf cfgRef = false := by decide
/-- FIELD1 is a row of `GOT_START` only (R103). -/
theorem test_context_field1 : (Instr.busbyteField1 0#8).inContext .idle = false := by decide

/-! ### Decoding: words written out from the tables of R90 to R104 -/

/-- Op ids `0x01` to `0x03` with the ring buffer operand (R104). -/
theorem test_decode_ring :
    decode ⟨cfgRef, .idle⟩ ⟨.label, [0x01#8, 0#8, 0x55#8, 0#8, 0#8]⟩ = .ok (.rbEnq .ser 0x55#8) ∧
    decode ⟨cfgRef, .idle⟩ ⟨.label, [0x02#8, 1#8, 0#8, 0#8, 0#8]⟩ = .ok (.rbDeq .bus) ∧
    decode ⟨cfgRef, .idle⟩ ⟨.label, [0x03#8, 0#8, 0#8, 0#8, 0#8]⟩ = .ok (.rbEmpty .ser) ∧
    decode ⟨cfgRef, .idle⟩ ⟨.label, [0x03#8, 2#8, 0#8, 0#8, 0#8]⟩ = .error (.noSuchRing 2#8) := by
  decide
/-- Op ids `0x10` to `0x15` (R104). -/
theorem test_decode_busw :
    decode ⟨cfgRef, .idle⟩ ⟨.label, [0x10#8, 0x3C#8, 0#8, 0#8, 0#8]⟩ = .ok (.busWrite 0x3C#8) ∧
    decode ⟨cfgRef, .idle⟩ ⟨.label, [0x11#8, 0x3C#8, 0#8, 0#8, 0#8]⟩ = .ok (.buswDrive 0x3C#8) ∧
    decode ⟨cfgRef, .idle⟩ ⟨.label, [0x12#8, 0#8, 0#8, 0#8, 0#8]⟩ = .ok .buswAssert ∧
    decode ⟨cfgRef, .idle⟩ ⟨.label, [0x13#8, 0#8, 0#8, 0#8, 0#8]⟩ = .ok .buswDeassert ∧
    decode ⟨cfgRef, .idle⟩ ⟨.label, [0x14#8, 0x27#8, 2#8, 0#8, 0#8]⟩ = .ok (.busSendpkt 0x27#8 2#8) ∧
    decode ⟨cfgRef, .idle⟩ ⟨.label, [0x15#8, 0#8, 0#8, 0#8, 0#8]⟩ = .ok .busSendready := by decide
/-- Op ids `0x20` to `0x24` (R104). -/
theorem test_decode_busr :
    decode ⟨cfgRef, .idle⟩ ⟨.label, [0x20#8, 0#8, 0#8, 0#8, 0#8]⟩ = .ok .busrEdge ∧
    decode ⟨cfgRef, .idle⟩ ⟨.label, [0x21#8, 0#8, 0#8, 0#8, 0#8]⟩ = .ok .busrService ∧
    decode ⟨cfgRef, .idle⟩ ⟨.label, [0x22#8, 0#8, 0#8, 0#8, 0#8]⟩ = .ok .busHasdata ∧
    decode ⟨cfgRef, .idle⟩ ⟨.label, [0x23#8, 0#8, 0#8, 0#8, 0#8]⟩ = .ok .busRead ∧
    decode ⟨cfgRef, .idle⟩ ⟨.label, [0x24#8, 0#8, 0#8, 0#8, 0#8]⟩ = .ok .pfStep ∧
    decode ⟨cfgRef, .idle⟩ ⟨.label, [0x24#8, 1#8, 0#8, 0#8, 0#8]⟩ = .error .unusedOperand := by decide
/-- Op ids `0x30` to `0x33`; the frame word of byte `0xFE` is `0011111111` (R104, R111). -/
theorem test_decode_sbd :
    decode ⟨cfgRef, .idle⟩ ⟨.label, [0x30#8, 0#8, 0#8, 0#8, 0#8]⟩ = .ok .sbdStart ∧
    decode ⟨cfgRef, .idle⟩ ⟨.label, [0x31#8, 9#8, 0#8, 0#8, 0#8]⟩ = .ok (.sbdSample 9) ∧
    decode ⟨cfgRef, .idle⟩ ⟨.label, [0x31#8, 10#8, 0#8, 0#8, 0#8]⟩ = .error (.noSuchSample 10#8) ∧
    decode ⟨cfgRef, .idle⟩ ⟨.label, [0x32#8, 0#8, 0#8, 0#8, 0#8]⟩ = .ok .sbdFinish ∧
    decode ⟨cfgRef, .idle⟩ ⟨.label, [0x33#8, 0xFF#8, 0#8, 0#8, 0#8]⟩ =
      .ok (.sbdFrame 0b0011111111#10) := by decide
/-- Op ids `0x40` to `0x62`; `0x63` names no operation (R104). -/
theorem test_decode_client :
    decode ⟨cfgRef, .idle⟩ ⟨.label, [0x40#8, 0x92#8, 0#8, 0#8, 0#8]⟩ = .ok (.eaByte 0x92#8) ∧
    decode ⟨cfgRef, .idle⟩ ⟨.label, [0x50#8, 0#8, 2#8, 60#8, 64#8]⟩ =
      .ok (.vaEvent ⟨.noteOn, 2#4, 60#8, 64#8⟩) ∧
    decode ⟨cfgRef, .idle⟩ ⟨.label, [0x60#8, 39#8, 2#8, 0#8, 0#8]⟩ = .ok (.ssPacket 39#8 2#8) ∧
    decode ⟨cfgRef, .idle⟩ ⟨.label, [0x61#8, 7#8, 0#8, 0#8, 0#8]⟩ = .ok (.ssCheck 7#8) ∧
    decode ⟨cfgRef, .idle⟩ ⟨.label, [0x61#8, 8#8, 0#8, 0#8, 0#8]⟩ = .error (.channelRange 8#8) ∧
    decode ⟨cfgRef, .idle⟩ ⟨.label, [0x62#8, 0#8, 0#8, 0#8, 0#8]⟩ = .ok .ssLoop ∧
    decode ⟨cfgRef, .idle⟩ ⟨.label, [0x63#8, 0#8, 0#8, 0#8, 0#8]⟩ = .error (.unknownOpId 0x63#8) := by
  decide
/-- The decode map of R103, row by row, and a byte at the pins (R91). -/
theorem test_decode_bus_byte :
    decode ⟨cfgRef, .idle⟩ ⟨.byte8, [0x3C#8]⟩ = .ok (.byte 0x3C#8) ∧
    decode ⟨cfgRef, .waitReady⟩ ⟨.framed8, [0xAA#8]⟩ = .ok .rdy ∧
    decode ⟨cfgRef, .waitReady⟩ ⟨.framed8, [0xFF#8]⟩ = .ok (.busbytePreReady 0xFF#8) ∧
    decode ⟨cfgRef, .idle⟩ ⟨.framed8, [0xFF#8]⟩ = .ok .busbyteStart ∧
    decode ⟨cfgRef, .idle⟩ ⟨.framed8, [0xAA#8]⟩ = .ok (.busbyteUnsync 0xAA#8) ∧
    decode ⟨cfgRef, .gotStart⟩ ⟨.framed8, [0xFF#8]⟩ = .ok (.busbyteField1 0xFF#8) ∧
    decode ⟨cfgRef, .gotF1⟩ ⟨.framed8, [0xAA#8]⟩ = .ok (.busbyteField2 0xAA#8) ∧
    decode ⟨cfgRef, .waitReady⟩ ⟨.rdy8, [0xAA#8]⟩ = .ok .rdy := by decide
/-- `FF 27 02` is PKT.ON 39, 2 and `FF 80 02` is PKT.OFF 2 (V-BW5, V-BW6). -/
theorem test_decode_packet :
    decode ⟨cfgRef, .idle⟩ ⟨.pkt24, [0xFF#8, 0x27#8, 0x02#8]⟩ = .ok (.pktOn 39#8 2#8) ∧
    decode ⟨cfgRef, .idle⟩ ⟨.pkt24, [0xFF#8, 0x80#8, 0x02#8]⟩ = .ok (.pktOff 2#8) ∧
    decode ⟨cfgRef, .idle⟩ ⟨.pkt24, [0x27#8, 0x80#8, 0x02#8]⟩ = .error (.notStartSentinel 0x27#8) := by
  decide
/-- Byte `0x92` is sent as `0 0100 1001 1` and byte `0xFE` as `0 0111 1111 1` (R189). -/
theorem test_decode_frame :
    decode ⟨cfgRef, .idle⟩ ⟨.ser10, [0b10010011#8, 0b00#8]⟩ = .ok (.serData 0b0010010011#10) ∧
    packData 0b0010010011#10 = 0x92#8 ∧
    decode ⟨cfgRef, .idle⟩ ⟨.ser10, [0b11111111#8, 0b00#8]⟩ = .ok (.serKeepalive false true) := by decide
/-- `92 3C 40`, `80 3C 00` and `B0 07 7F` (V-EA1, V-EA2, V-EA4), and the one byte `B0` (V-EA9). -/
theorem test_decode_event :
    decode ⟨cfgRef, .idle⟩ ⟨.evt24, [0x92#8, 0x3C#8, 0x40#8]⟩ = .ok (.evtNoteon 2#4 0x3C#8 0x40#8) ∧
    decode ⟨cfgRef, .idle⟩ ⟨.evt24, [0x80#8, 0x3C#8, 0x00#8]⟩ = .ok (.evtNoteoff 0#4 0x3C#8 0#8) ∧
    decode ⟨cfgRef, .idle⟩ ⟨.evt24, [0xB0#8, 0x07#8, 0x7F#8]⟩ =
      .ok (.evtOther 0xB#4 0#4 0x07#8 0x7F#8) ∧
    decode ⟨cfgRef, .idle⟩ ⟨.evt8, [0xB0#8]⟩ = .ok (.evtSeqdiscard 0xB#4 0#4) := by decide

/-! ### Ring buffer (vectors V-RB) -/

/-- V-RB7: with head 1 and tail 3 of four cells, an enqueue stores in cell 3 and the tail wraps. -/
theorem test_rbEnq_wraps : runs (exec (.rbEnq .ser 0x44#8) (serAt 1 3)) (fun s =>
    s.rbSer.tail == 0 && s.rbSer.buf.read 3 == 0x44#8 && s.sbdResp == .bool true) = true := by decide
/-- V-RB5: a full buffer drops the byte offered. -/
theorem test_rbEnq_full : runs (exec (.rbEnq .ser 0x44#8) (serAt 0 3)) (fun s =>
    s.rbSer == (serAt 0 3).rbSer && s.sbdResp == .bool false &&
      s.trace == [.drop (.rbFull .ser 0x44#8)]) = true := by decide
/-- V-RB9: a dequeue of cell 3 wraps the head. -/
theorem test_rbDeq_wraps : runs (exec (.rbDeq .ser) (serAt 3 0)) (fun s =>
    s.rbSer.head == 0 && s.clientResp == .optByte (some 0x44#8) && s.trace == [.deq .ser 0x44#8]) =
      true := by decide
/-- V-RB2: an empty buffer answers none. -/
theorem test_rbDeq_empty : runs (exec (.rbDeq .bus) small) (fun s =>
    s.clientResp == .optByte none && s.trace == []) = true := by decide
/-- V-RB1. -/
theorem test_rbEmpty : runs (exec (.rbEmpty .bus) small) (fun s => s.clientResp == .bool true) = true := by
  decide
/-- V-RB13: an enqueue that falls between m4 and m5 of a dequeue still finds the buffer full (R127). -/
theorem test_enqueue_inside_dequeue :
    runs (andThen (beginOp (.rbDeq .ser) (serAt 0 3)) fun s1 => andThen (clientMicros 4 s1) fun s2 =>
      andThen (exec (.rbEnq .ser 0x20#8) s2) (clientMicros 1)) (fun s =>
        s.rbSer.head == 1 && s.rbSer.tail == 3 && s.clientResp == .optByte (some 0x11#8) &&
          s.trace == [.drop (.rbFull .ser 0x20#8), .deq .ser 0x11#8]) = true := by decide
/-- V-RB15: a dequeue that has read the tail before the publication answers none. -/
theorem test_publication_after_m2 :
    runs (andThen (beginOp (.rbDeq .ser) (serAt 2 2)) fun s1 => andThen (clientMicros 2 s1) fun s2 =>
      andThen (exec (.rbEnq .ser 0x77#8) s2) (clientMicros 1)) (fun s =>
        s.rbSer.head == 2 && s.rbSer.tail == 3 && s.clientResp == .optByte none) = true := by decide

/-! ### Bus (vectors V-BW and V-BR) -/

/-- V-BW1. -/
theorem test_busWrite : runs (exec (.busWrite 0x3C#8) small) (fun s =>
    s.d == 0x3C#8 && !s.clk && s.buswPhase == .idle && s.trace == [.busByte 0x3C#8] &&
      s.rbBus.tail == 1 && s.rbBus.buf.read 0 == 0x3C#8 && decide (50 ≤ s.now)) = true := by decide
/-- V-BW1, the drive. -/
theorem test_buswDrive : runs (exec (.buswDrive 0x3C#8) small) (fun s =>
    s.d == 0x3C#8 && !s.clk && s.buswPhase == .driven && s.trace == [] && !s.irqPending) = true := by
  decide
/-- V-BW1, the assert: in the same instant the reader has its edge. -/
theorem test_buswAssert : runs (exec .buswAssert { small with d := 0x3C#8, buswPhase := .driven })
    (fun s => s.clk && s.buswPhase == .asserted && s.trace == [.busByte 0x3C#8] && s.irqPending) =
      true := by decide
/-- V-BW1, the deassert, at least 50 microseconds after the assert at 7. -/
theorem test_buswDeassert : runs (exec .buswDeassert { atUs 7 small with
      clk := true, buswPhase := .asserted, busMark := some (7 * cfgSmall.ticksPerUs) })
    (fun s => !s.clk && s.buswPhase == .idle && s.now == 57) = true := by decide
/-- V-BW5: `FF 27 02` in that order. -/
theorem test_busSendpkt : runs (exec (.busSendpkt 0x27#8 0x02#8) small) (fun s =>
    s.trace == [.busByte 0xFF#8, .busByte 0x27#8, .busByte 0x02#8] && s.d == 0x02#8) = true := by decide
/-- V-BW4. -/
theorem test_busSendready : runs (exec .busSendready small) (fun s => s.trace == [.busByte 0xAA#8]) =
    true := by decide
/-- V-BW8. -/
theorem test_second_writer :
    refuses (exec (.busWrite 0#8) { small with busDriver := .remote }) .secondWriter = true := by decide
/-- R156: a second edge merges. -/
theorem test_busrEdge_merges : runs (exec .busrEdge { small with irqPending := true }) (fun s =>
    s.irqPending && s.trace == [.drop .lostEdge]) = true := by decide
/-- V-BR1, in four cells. -/
theorem test_busrService : runs (exec .busrService { busAt 3 3 with d := 0x27#8, irqPending := true })
    (fun s => !s.irqPending && s.rbBus.buf.read 3 == 0x27#8 && s.rbBus.tail == 0) = true := by decide
/-- V-BR2. -/
theorem test_busHasdata : runs (exec .busHasdata (busAt 0 1)) (fun s => s.clientResp == .bool true) =
    true := by decide
/-- V-BR2. -/
theorem test_busRead : runs (exec .busRead (busAt 0 1)) (fun s =>
    s.clientResp == .byte 0x11#8 && s.rbBus.head == 1) = true := by decide
/-- V-BR3. -/
theorem test_busRead_empty : refuses (exec .busRead small) .readEmpty = true := by decide
/-- R165: the third byte completes the packet. -/
theorem test_pfStep : runs (exec .pfStep { busAt 0 1 with pfState := .gotF1, pfF1 := 0x27#8 })
    (fun s => s.pfState == .idle && s.clientResp == .optPacket (some (0x27#8, 0x11#8)) &&
      s.trace == [.deq .bus 0x11#8, .packet 0x27#8 0x11#8]) = true := by decide
/-- A remote transfer reaches the reader's ring buffer (R91, R146). -/
theorem test_byte : runs (exec (.byte 0x3C#8) small) (fun s =>
    s.d == 0x3C#8 && s.rbBus.tail == 1 && s.rbBus.buf.read 0 == 0x3C#8 && s.trace == []) = true := by
  decide
/-- R162: the ready byte passes the handshake, once. -/
theorem test_rdy : runs (exec .rdy small) (fun s => s.pfState == .idle && s.trace == []) = true := by
  decide
/-- R162: any other byte before it is discarded. -/
theorem test_busbytePreReady : runs (exec (.busbytePreReady 0xFF#8) small) (fun s =>
    s.pfState == .waitReady && s.trace == [.drop (.preReady 0xFF#8)]) = true := by decide
/-- R163. -/
theorem test_busbyteStart : runs (exec .busbyteStart { small with pfState := .idle }) (fun s =>
    s.pfState == .gotStart && s.trace == []) = true := by decide
/-- R163: a late ready byte is discarded (R101). -/
theorem test_busbyteUnsync : runs (exec (.busbyteUnsync 0xAA#8) { small with pfState := .idle })
    (fun s => s.pfState == .idle && s.trace == [.drop (.unsync 0xAA#8)]) = true := by decide
/-- R164, R102: the sentinel is payload here. -/
theorem test_busbyteField1 : runs (exec (.busbyteField1 0xFF#8) { small with pfState := .gotStart })
    (fun s => s.pfState == .gotF1 && s.pfF1 == 0xFF#8) = true := by decide
/-- R165. -/
theorem test_busbyteField2 :
    runs (exec (.busbyteField2 0x02#8) { small with pfState := .gotF1, pfF1 := 0x27#8 }) (fun s =>
      s.pfState == .idle && s.clientResp == .optPacket (some (0x27#8, 0x02#8))) = true := by decide

/-! ### Serial (rules R186 to R192, program P2) -/

/-- R186: the edge at 1000 microseconds. -/
theorem test_sbdStart : runs (exec .sbdStart (atUs 1000 small)) (fun s =>
    s.sbdBusy && s.sbdT0 == 1000 * cfgSmall.ticksPerUs && s.sbdK == 0) = true := by decide
/-- R187: sample 9 of the frame that starts at 1000 is taken at 1304, before the line rises at 1305. -/
theorem test_sbdSample : runs (exec (.sbdSample 9) { atUs 1300 small with
      sbdBusy := true, sbdT0 := 1000 * cfgSmall.ticksPerUs, sbdK := 9, sbdS := 0b1111111111#10,
      rxWave := [(1305 * cfgSmall.ticksPerUs, true), (1288 * cfgSmall.ticksPerUs, false)] })
    (fun s => s.now == 1304 && s.sbdS == 0b1111111110#10 && s.sbdK == 10) = true := by decide
/-- R188: the samples `0 0 1 0 0 1 0 0 1 1` are byte `0x92`. -/
theorem test_sbdFinish : runs (exec .sbdFinish { small with
      sbdBusy := true, sbdK := 10, sbdS := 0b0010010011#10 })
    (fun s => !s.sbdBusy && s.rbSer.tail == 1 && s.rbSer.buf.read 0 == 0x92#8) = true := by decide
/-- R192: byte `0xFE` is dropped. -/
theorem test_sbdFrame : runs (exec (.sbdFrame 0b0011111111#10) small) (fun s =>
    s.rbSer == small.rbSer && s.trace == [.drop (.keepalive 0xFE#8)]) = true := by decide
/-- R196: a start slot at 1 and a stop slot at 0 are not examined. -/
theorem test_serData : runs (exec (.serData 0b1000000000#10) small) (fun s =>
    s.rbSer.tail == 1 && s.rbSer.buf.read 0 == 0#8) = true := by decide
/-- R190, R273: a keep-alive at a full buffer is a KEEPALIVE drop. -/
theorem test_serKeepalive : runs (exec (.serKeepalive true false) (serAt 0 3)) (fun s =>
    s.rbSer == (serAt 0 3).rbSer && s.trace == [.drop (.keepalive 0xFE#8)]) = true := by decide

/-! ### Assembler (vectors X5 and V-EA) -/

/-- X5, step 3. -/
theorem test_eaByte : runs (exec (.eaByte 0x40#8) { small with
      eaState := .awaitingVelocity, eaAction := .noteOn, eaChannel := 2#4, eaKey := 60#8 })
    (fun s => s.clientResp == .optEvent (some ⟨.noteOn, 2#4, 60#8, 64#8⟩) &&
      s.eaState == .awaitingAction) = true := by decide
/-- V-EA6: bit 7 of key and velocity is ignored. -/
theorem test_evtNoteon : runs (exec (.evtNoteon 0#4 0xBC#8 0xC0#8) small) (fun s =>
    s.trace == [.event ⟨.noteOn, 0#4, 60#8, 64#8⟩]) = true := by decide
/-- V-EA3. -/
theorem test_evtNoteoff : runs (exec (.evtNoteoff 15#4 0x7F#8 0x7F#8) small) (fun s =>
    s.trace == [.event ⟨.noteOff, 15#4, 127#8, 127#8⟩]) = true := by decide
/-- V-EA4. -/
theorem test_evtOther : runs (exec (.evtOther 0xB#4 0#4 0x07#8 0x7F#8) small) (fun s =>
    s.trace == [.event ⟨.other, 0#4, 0x80#8, 0x80#8⟩]) = true := by decide
/-- V-EA10: in sequenced mode each of the three bytes is a discarded action byte. -/
theorem test_evtOther_sequenced : runs (exec (.evtOther 0xB#4 0#4 0x07#8 0x7F#8) (seqMode small))
    (fun s => s.eaState == .awaitingAction && s.trace ==
      [.drop (.seqFrame 0xB0#8), .drop (.seqFrame 0x07#8), .drop (.seqFrame 0x7F#8)]) = true := by decide
/-- V-EA9. -/
theorem test_evtSeqdiscard : runs (exec (.evtSeqdiscard 0xB#4 0#4) (seqMode small)) (fun s =>
    s.eaState == .awaitingAction && s.trace == [.drop (.seqFrame 0xB0#8)]) = true := by decide

/-! ### Allocator (vectors X1 to X3, X7, V-VA) -/

/-- X2, step 1: only the lowest of two holders is released. -/
theorem test_vaEvent_off :
    runs (exec (.vaEvent ⟨.noteOff, 0#4, 60#8, 0#8⟩) (keys 60#8 62#8 60#8)) (fun s =>
      s.assignedKey == (keys 0x80#8 62#8 60#8).assignedKey &&
        s.clientResp == .pairs [(0x80#8, 0#8)]) = true := by decide
/-- X7, step 3. -/
theorem test_vaEvent_sequenced :
    runs (exec (.vaEvent ⟨.noteOn, 2#4, 64#8, 100#8⟩) (seqMode (keys 60#8 62#8 0x80#8))) (fun s =>
      s.assignedKey == [60#8, 62#8, 64#8, 64#8, 64#8, 0x80#8, 0x80#8, 0x80#8] &&
        s.clientResp == .pairs [(43#8, 2#8), (43#8, 3#8), (43#8, 4#8)]) = true := by decide

/-! ### Scheduler (vectors V-SS) -/

/-- V-SS8. -/
theorem test_ssPacket : runs (exec (.ssPacket 48#8 2#8) (atUs 12000 ch2)) (fun s =>
    s.ch[2]? == some ⟨true, 2273, 14273⟩) = true := by decide
/-- V-SS4: note code 88 is out of the table. -/
theorem test_ssPacket_range : runs (exec (.ssPacket 88#8 0#8) small) (fun s =>
    s.ch == small.ch && s.trace == [.drop (.pktRange 88#8 0#8)]) = true := by decide
/-- V-SS9: at the deadline nothing happens. -/
theorem test_ssCheck_equal : runs (exec (.ssCheck 2#8) (atUs 13822 ch2)) (fun s =>
    s.trace == [] && s.ch == ch2.ch) = true := by decide
/-- V-SS10: one microsecond later a pulse. -/
theorem test_ssCheck : runs (exec (.ssCheck 2#8) (atUs 13823 ch2)) (fun s =>
    s.trace == [.pulse 2 13823] && s.ch[2]? == some ⟨true, 3822, 17644⟩ &&
      s.stepPin == small.stepPin) = true := by decide
/-- V-SS14: channel 1 is checked one microsecond after channel 0. -/
theorem test_ssLoop : runs (exec .ssLoop { atUs 2274 small with
      ch := (small.ch.set 0 ⟨true, 239, 239⟩).set 1 ⟨true, 2273, 2273⟩,
      delays := [cfgSmall.ticksPerUs] })
    (fun s => s.trace == [.pulse 0 2274, .pulse 1 2275] && s.ch[0]? == some ⟨true, 239, 478⟩ &&
      s.ch[1]? == some ⟨true, 2273, 4546⟩) = true := by decide
/-- P1, steps 6 to 9. -/
theorem test_pktOn : runs (exec (.pktOn 0x27#8 0x02#8) { atUs 10000 small with pfState := .idle })
    (fun s => s.ch[2]? == some ⟨true, 3822, 13822⟩ && s.trace == [.packet 0x27#8 0x02#8] &&
      s.pfState == .idle) = true := by decide
/-- P1, steps 18 to 20. -/
theorem test_pktOff : runs (exec (.pktOff 0x02#8) { ch2 with pfState := .idle }) (fun s =>
    s.ch[2]? == some ⟨false, 3822, 13822⟩ && s.trace == [.packet 0x80#8 0x02#8]) = true := by decide

/-! ### The step -/

/-- The next step of a placed word runs it (V-SS1 through the fetch). -/
theorem test_withFetchWord : runs (step ((atUs 5 small).withFetchWord 40 0x0000075760)) (fun s =>
    s.ch[7]? == some ⟨true, 239, 244⟩) = true := by decide
/-- The time may only grow (R110). -/
theorem test_time_wrap : refuses (step { atUs 5 small with pending := [.time 4] }) .timeWrap = true := by
  decide

/-- V-RB18: with head 2 and tail 3, the producer's view and what it could have seen at 0, a stale read
of `head` gives 0, 1 or 2. -/
theorem test_stale_head : ∀ lag, lag < 9 → staleIndex 4 0 2 lag ≤ 2 := by decide
/-- R303: `RX` at 0 at reset release starts nothing until it has risen and fallen again. -/
theorem test_reset_rx_low :
    runs (andThen (driveRx false (State.resetWith cfgSmall 0 false)) (driveRx true)) (fun s =>
      !s.sbdBusy) = true ∧
    runs (andThen (driveRx true (State.resetWith cfgSmall 0 false)) (driveRx false)) (fun s =>
      s.sbdBusy) = true := by decide
/-- P5 names RB.ENQ by SBD itself; V-RB20 refuses the client; BUSR enqueues in its handler only (R158). -/
theorem test_who_enqueues :
    runs (step { small with pending := [.op .sbd ⟨.label, [0x01#8, 0#8, 0x20#8, 0#8, 0#8]⟩] })
      (fun s => s.rbSer.tail == 1) = true ∧
    refuses (step { small with pending := [.op .client ⟨.label, [0x01#8, 0#8, 0x20#8, 0#8, 0#8]⟩] })
      .spscViolation = true ∧
    refuses (step { small with pending := [.start .busr ⟨.label, [0x01#8, 1#8, 0x20#8, 0#8, 0#8]⟩] })
      .spscViolation = true := by decide
/-- R324: a level of a pin is no frame and no byte; a fall of `RX`, a rise of `CLK`, a frame and a byte for
the framer are; the client's SS.CHECK is not. -/
theorem test_quiescent :
    let s : State := { small with pending := [.rx true, .driveD 0x11#8, .driveClk false, .time 9,
      .op .client ⟨.label, [0x61#8, 7#8, 0#8, 0#8, 0#8]⟩] }
    s.Quiescent ∧ ¬ State.Quiescent { s with pending := [.rx true, .rx false] } ∧
    ¬ State.Quiescent { s with pending := [.driveClk true] } ∧
    ¬ State.Quiescent { s with pending := [.op .env ⟨.ser10, [0x93#8, 0x00#8]⟩] } ∧
    ¬ State.Quiescent { s with pending := [.op .client ⟨.framed8, [0x27#8]⟩] } := by decide
/-- R206, R324: the bytes of an event are serial bytes in live mode, and the sequence source's in
sequenced mode. -/
theorem test_quiescent_events :
    let events : List Request :=
      [.op .client ⟨.evt24, [0x92#8, 0x3C#8, 0x40#8]⟩, .op .client ⟨.evt8, [0xB0#8]⟩]
    State.Quiescent { small with cfg := { cfgSmall with mode := .sequenced }, pending := events } ∧
    ¬ State.Quiescent { small with cfg := { cfgSmall with mode := .live }, pending := events } := by
  decide
/-- R187: between its samples SBD does nothing else. -/
theorem test_no_enqueue_between_samples :
    refuses (step { small with
      sbdBusy := true, sbdK := 4
      pending := [.op .sbd ⟨.label, [0x01#8, 0#8, 0x55#8, 0#8, 0#8]⟩] }) .spscViolation = true := by decide
/-- U3 on a unit that reads its own bus: its drive falls on the sample, and the enqueue is in progress. -/
theorem test_own_drive_during_sample :
    runs (step { small with
      irqPending := true, busDriver := .this, d := 0xFF#8
      pending := [.driveDuringSample .client 0x00#8] }) (fun s =>
        s.d == 0#8 && s.buswPhase == .driven && !s.irqPending && s.busrOp.isSome) = true := by decide

/-! ### Witnesses: states and operands that meet the hypotheses of the statements -/

/-- The state with one request to come. -/
def asked (q : Request) (s : State) : State := { s with pending := [q] }

/-- SS.CHECK of the last channel, by the client. -/
def check7 : Request := .op .client ⟨.label, [0x61#8, 7#8, 0#8, 0#8, 0#8]⟩

/-- The decoder busy with sample `k` next. -/
def sampling (k : Fin 11) (s : State) : State := { s with sbdBusy := true, sbdK := k }

/-- The stale small state with `RB_SER` full, none of its three bytes yet seen by the consumer. -/
def staleFull : State := staleView { serAt 3 2 with rbSer := ⟨[(0, 0x11#8)], 3, 2, 3, 3, 3, 3⟩ }

/-- The stale small state with `RB_SER` empty after three dequeues, of which the producer has seen none
and could have seen one. -/
def staleEmpty : State := staleView { serAt 3 3 with rbSer := ⟨[(0, 0x11#8)], 3, 3, 0, 3, 1, 3⟩ }

theorem witness_DecodeOfEncode :
    ((Instr.ssCheck 7#8).wf cfgRef = true ∧ (Instr.ssCheck 7#8).inContext .waitReady = true) ∧
    ((Instr.busbyteUnsync 0xFE#8).wf cfgRef = true ∧
      (Instr.busbyteUnsync 0xFE#8).inContext .idle = true) ∧
    ((Instr.vaEvent ⟨.noteOn, 15#4, 127#8, 127#8⟩).wf cfgRef = true ∧
      (Instr.vaEvent ⟨.noteOn, 15#4, 127#8, 127#8⟩).inContext .idle = true) := by decide
theorem witness_EncodeOfDecode :
    (decode ⟨cfgRef, .gotF1⟩ ⟨.framed8, [0xFF#8]⟩ = .ok (.busbyteField2 0xFF#8) ∧
      Instr.busbyteField2 0xFF#8 ≠ .rdy) ∧
    (decode ⟨cfgRef, .idle⟩ ⟨.rdy8, [0xAA#8]⟩ = .ok .rdy ∧ Format.rdy8 ≠ .framed8) := by decide
theorem witness_DecodedIsWellFormed :
    decode ⟨cfgRef, .gotStart⟩ ⟨.framed8, [0x00#8]⟩ = .ok (.busbyteField1 0#8) := by decide
theorem witness_StepRunsDecodedInstruction :
    (asked check7 small).pending = check7 :: [] ∧
    decode (asked check7 small).context ⟨.label, [0x61#8, 7#8, 0#8, 0#8, 0#8]⟩ =
      .ok (.ssCheck 7#8) ∧
    discipline .client (.ssCheck 7#8) { asked check7 small with pending := [] } = none := by decide
theorem witness_ForeignRingOperationIsRefused :
    (decode small.context ⟨.label, [0x01#8, 0#8, 0x55#8, 0#8, 0#8]⟩ = .ok (.rbEnq .ser 0x55#8) ∧
      Agent.busr ≠ producer .ser) ∧
    (decode small.context ⟨.label, [0x02#8, 1#8, 0#8, 0#8, 0#8]⟩ = .ok (.rbDeq .bus) ∧
      decode small.context ⟨.label, [0x03#8, 1#8, 0#8, 0#8, 0#8]⟩ = .ok (.rbEmpty .bus) ∧
      Agent.busr ≠ .client) ∧
    refuses (step (asked (.op .client ⟨.label, [0x02#8, 1#8, 0#8, 0#8, 0#8]⟩) small))
      (.noStep .notReachable) = true ∧
    refuses (step (asked (.op .client ⟨.label, [0x02#8, 0#8, 0#8, 0#8, 0#8]⟩)
      { small with clientOp := some ⟨.ser, .m1, .deq⟩ })) .spscViolation = true ∧
    refuses (step (asked (.op .sbd ⟨.label, [0x61#8, 7#8, 0#8, 0#8, 0#8]⟩) small))
      .spscViolation = true ∧
    refuses (step (asked (.op .busr ⟨.label, [0x01#8, 1#8, 0x55#8, 0#8, 0#8]⟩) small))
      .spscViolation = true ∧
    refuses (step (asked (.op .busr ⟨.label, [0x21#8, 0#8, 0#8, 0#8, 0#8]⟩)
      { small with irqPending := true, busrOp := some ⟨0#8, .m1, .handler⟩ })) .spscViolation = true ∧
    refuses (step (asked (.start .sbd ⟨.label, [0x01#8, 0#8, 0x55#8, 0#8, 0#8]⟩)
      { small with sbdOp := some ⟨0#8, .m1, .plain⟩ })) .spscViolation = true ∧
    refuses (step (asked check7 { small with busDriver := .this, buswPhase := .driven }))
      .spscViolation = true ∧
    refuses (step (asked (.op .sbd ⟨.label, [0x01#8, 0#8, 0x55#8, 0#8, 0#8]⟩) (sampling 0 small)))
      .spscViolation = true ∧
    refuses (step (asked (.op .sbd ⟨.label, [0x31#8, 0#8, 0#8, 0#8, 0#8]⟩)
      { sampling 0 small with sbdOp := some ⟨0#8, .m1, .plain⟩ })) .spscViolation = true ∧
    refuses (step (asked (.op .env ⟨.ser10, [0x93#8, 0x00#8]⟩)
      { small with sbdOp := some ⟨0#8, .m1, .plain⟩ })) .spscViolation = true := by decide
/-- Also for StepKeepsConfiguration, TimeNeverDecreases and TraceOnlyGrows: a sound state in which `step`
answers a next state. -/
theorem witness_StepKeepsInvariant :
    (asked check7 (atUs 14000 ch2)).Inv ∧
    runs (step (asked check7 (atUs 14000 ch2))) (fun _ => true) = true := by decide
/-- The invariant in a stale state, the producer inside an enqueue and the client inside a dequeue; the
next micro-step of each completes. -/
theorem witness_StepKeepsInvariant_inside_operations :
    let s : State := { staleView (serAt 3 0) with
      rbSer := ⟨[(3, 0x44#8)], 3, 0, 2, 0, 3, 0⟩
      sbdOp := some ⟨0x55#8, .m3 0 2, .plain⟩, clientOp := some ⟨.ser, .m5 3 0x44#8, .deq⟩ }
    s.Inv ∧ runs (step (asked (.micro .sbd) s)) (fun t => t.sbdOp == some ⟨0x55#8, .m4 0 1, .plain⟩) =
      true ∧
    runs (step (asked (.micro .client) s)) (fun t => t.rbSer.head == 0) = true := by decide
theorem witness_SoundStepNeverFaults : (serAt 3 3).Inv ∧ cfgSmall.Wf := by decide +kernel
/-- An engine's request, and the environment's, that change the state. -/
theorem witness_EnginesLeaveClientStateAlone :
    Request.isClients (.op .busr ⟨.label, [0x20#8, 0#8, 0#8, 0#8, 0#8]⟩) = false ∧
    runs (step (asked (.op .busr ⟨.label, [0x20#8, 0#8, 0#8, 0#8, 0#8]⟩) small))
      (fun s => s.irqPending) = true ∧
    Request.isClients (.time 9) = false ∧
    runs (step (asked (.time 9) small)) (fun s => s.time == 9) = true := by decide
/-- The last cell of `RB_SER`, as tail, and as head for DequeueTakesOldestOrNothing. -/
theorem witness_EnqueueStoresOrDropsNewest :
    (serAt 1 3).rbSer.tail < capacity cfgSmall .ser + 1 ∧
    (serAt 3 0).rbSer.head < capacity cfgSmall .ser + 1 := by decide
/-- Room for one byte; and a full buffer. -/
theorem witness_EnqueueAppendsToContents :
    (serAt 1 3).cfg.rbView = .immediate ∧ (serAt 1 3).rbSer.Sound (slots cfgSmall .ser) ∧
    (serAt 1 3).rbSer.count 4 = 2 ∧ (serAt 1 0).rbSer.Sound (slots cfgSmall .ser) ∧
    (serAt 1 0).rbSer.count 4 = 3 := by decide
/-- A buffer with a byte; and an empty one. -/
theorem witness_DequeueRemovesFirstOfContents :
    (serAt 3 0).cfg.rbView = .immediate ∧ (serAt 3 0).rbSer.Sound (slots cfgSmall .ser) ∧
    (serAt 3 0).rbSer.contents 4 = [0x44#8] ∧ (serAt 3 3).rbSer.Sound (slots cfgSmall .ser) ∧
    (serAt 3 3).rbSer.contents 4 = [] := by decide
theorem witness_OtherIndexReadStaysWithinHeldValues :
    ((serAt 3 2).cfg.rbView = .immediate ∧ (serAt 3 2).rbSer.Sound (slots cfgSmall .ser)) ∧
    (staleEmpty.cfg.rbView = .stale ∧ staleEmpty.rbSer.Sound (slots cfgStale .ser)) := by decide
/-- Full, and empty. -/
theorem witness_StaleViewsAreSafe :
    (staleFull.cfg.rbView = .stale ∧ staleFull.rbSer.Sound (slots cfgStale .ser) ∧
      staleFull.rbSer.ViewSound .stale (slots cfgStale .ser) ∧ staleFull.rbSer.isFull 4 = true) ∧
    (staleEmpty.cfg.rbView = .stale ∧ staleEmpty.rbSer.Sound (slots cfgStale .ser) ∧
      staleEmpty.rbSer.ViewSound .stale (slots cfgStale .ser) ∧ staleEmpty.rbSer.isEmpty = true) := by decide
theorem witness_EnqueueLeavesHeldBytesAlone :
    (serAt 1 3).rbSer.Sound (slots cfgSmall .ser) ∧ 1 < (serAt 1 3).rbSer.count 4 ∧
    runs (exec (.rbEnq .ser 0x44#8) (serAt 1 3)) (fun _ => true) = true := by decide
/-- No operation in progress: for EnqueueMicroStepsMakeTheOperation, ClientMicroStepsMakeTheOperation,
EngineMicroStepsMakeTheOperation and InterleavedEnqueueLinearises. -/
theorem witness_MicroSteps :
    let s : State := { busAt 0 1 with irqPending := true }
    s.enqOp .bus = none ∧ s.clientOp = none ∧ s.busrOp = none ∧ s.sbdOp = none ∧
    s.cfg.rbView = .immediate ∧ s.rbBus.Sound (slots cfgSmall .bus) ∧
    runs (exec (.rbEnq .bus 0#8) s) (fun _ => true) = true ∧
    runs (exec (.rbDeq .bus) s) (fun _ => true) = true ∧
    runs (exec .busRead s) (fun _ => true) = true ∧
    runs (exec .busrService s) (fun _ => true) = true ∧
    runs (exec .sbdFinish (sampling 10 s)) (fun _ => true) = true ∧
    runs (exec (.sbdFrame 0#10) s) (fun _ => true) = true := by decide
theorem witness_DriveSetsTheLines :
    small.buswPhase = .idle ∧ small.clk = false ∧ small.busDriver ≠ .remote := by decide
/-- Also for DeassertLowersTheClock. -/
theorem witness_AssertRaisesTheClock :
    ({ small with buswPhase := .driven } : State).buswPhase = .driven ∧
    ({ small with buswPhase := .asserted } : State).buswPhase = .asserted := by decide
/-- One state for each clause. -/
theorem witness_OperationsOutsideTheirConditionAreRefused :
    refuses (step (asked (.driveD 0#8) { small with busDriver := .this })) .secondWriter = true ∧
    refuses (step (asked (.driveD 0#8) { small with clk := true, busDriver := .remote }))
      .secondWriter = true ∧
    refuses (step (asked (.driveClk true) { small with busDriver := .this })) .secondWriter = true ∧
    refuses (exec (.buswDrive 0#8) { small with busDriver := .remote }) .secondWriter = true ∧
    refuses (exec (.byte 0#8) { small with busDriver := .this }) .secondWriter = true ∧
    refuses (exec (.buswDrive 0#8) { small with busDriver := .this, buswPhase := .driven })
      .spscViolation = true ∧
    refuses (exec .busSendready
      { small with busDriver := .this, buswPhase := .asserted, clk := true }) .secondWriter = true ∧
    refuses (exec .buswAssert small) (.noStep .notEnabled) = true ∧
    refuses (exec .buswDeassert { small with buswPhase := .driven }) (.noStep .notEnabled) = true ∧
    refuses (exec (.byte 0#8) { small with clk := true }) .secondWriter = true ∧
    refuses (exec (.sbdFrame 0#10) (sampling 0 small)) .spscViolation = true ∧
    refuses (exec (.serData 0#10) (sampling 0 small)) .spscViolation = true ∧
    refuses (exec (.serKeepalive false true) (sampling 10 small)) .spscViolation = true ∧
    refuses (exec (.ssCheck 8#8) small) (.noStep .noSuchOperand) = true := by decide
/-- A unit that does not read the bus, an enqueue on its `RB_BUS` in progress. -/
def deaf : State := { busAt 3 3 with
  cfg := { cfgSmall with listens := false }, busrOp := some ⟨0x11#8, .m1, .handler⟩ }

/-- A unit that does not read the bus; the next witness has one that does. -/
theorem witness_SendPacketPutsThreeBytesOnTheBus :
    deaf.Inv ∧ deaf.buswPhase = .idle ∧ deaf.clk = false ∧ deaf.busDriver ≠ .remote ∧
    deaf.cfg.listens = false ∧ (busAt 3 3).cfg.listens = true ∧
    runs (exec (.busSendpkt 1#8 2#8) deaf) (fun t => t.busrOp == deaf.busrOp && t.d == 2#8) = true := by
  decide
/-- Also for SendPacketPutsThreeBytesOnTheBus and RemoteTransferOffersTheByte: an idle bus, the last
cell. -/
theorem witness_BusWriteTransfersTheByte :
    let s := busAt 3 3
    s.buswPhase = .idle ∧ s.clk = false ∧ s.busDriver ≠ .remote ∧ s.busDriver ≠ .this ∧
    s.busrOp = none ∧ s.rbBus.tail < slots cfgSmall .bus ∧ 0xAA#8 = s.cfg.readyByte ∧ s.Inv := by
  decide
theorem witness_BusRoundTripReturnsEveryByte :
    (busAt 3 3).Inv ∧ cfgSmall.Wf ∧ cfgSmall.rbView = .immediate ∧ cfgSmall.listens = true ∧
    (busAt 3 3).buswPhase = .idle ∧ (busAt 3 3).clk = false ∧ (busAt 3 3).busDriver ≠ .remote ∧
    (busAt 3 3).busrOp = none ∧ (busAt 3 3).rbBus.isEmpty = true :=
  ⟨by decide, by decide +kernel, by decide⟩
/-- A rising clock; one that was high already. -/
theorem witness_EdgeSetsThePendingBit :
    runs (step (asked (.driveClk true) small)) (fun s => s.irqPending) = true ∧
    runs (step (asked (.driveClk true) { small with clk := true, busDriver := .remote }))
      (fun s => !s.irqPending) = true := by decide
theorem witness_ServiceSamplesAndEnqueues :
    ({ busAt 0 3 with irqPending := true } : State).rbBus.tail < slots cfgSmall .bus ∧
    refuses (exec .busrService small) (.noStep .notEnabled) = true := by decide
/-- A byte in the last cell; and none. -/
theorem witness_ReadReturnsTheOldestByteOrIsRefused :
    (busAt 3 0).rbBus.head < slots cfgSmall .bus ∧
    (afterDequeue .bus (busAt 3 0)).1 = some 0x44#8 ∧ (afterDequeue .bus (busAt 3 3)).1 = none := by
  decide
theorem witness_FramerStepFollowsTheDecodeMap :
    (busAt 3 0).rbBus.head < slots cfgSmall .bus := by decide
theorem witness_FramedRowsFollowTheDecodeMap :
    0xAA#8 = small.cfg.readyByte ∧ 0xFF#8 = small.cfg.startSentinel := by decide
/-- A falling line at an armed decoder and at a busy one. -/
theorem witness_StartEdgeBeginsAFrame :
    runs (step (asked (.rx false) small)) (fun s => s.sbdBusy) = true ∧
    runs (step (asked (.rx false) (sampling 5 small))) (fun s => s.sbdK == 5) = true := by decide
/-- The last sample; one that is not the next. -/
theorem witness_SampleTakesTheLevelAtItsInstant :
    ((sampling 9 small).sbdBusy = true ∧ (sampling 9 small).sbdK.val = (9 : Fin 10).val) ∧
    (sampling 10 small).sbdK.val ≠ (9 : Fin 10).val := by decide
/-- The ten samples of a byte and of the keep-alive; nine samples. -/
theorem witness_FinishFiltersAndEnqueues :
    let s : State := { sampling 10 (serAt 0 3) with sbdS := 0b0011111111#10 }
    (s.rbSer.tail < slots cfgSmall .ser ∧ s.sbdBusy = true ∧ s.sbdK.val = 10 ∧
      packData s.sbdS = s.cfg.keepaliveByte) ∧
    packData (sampling 10 small).sbdS ≠ cfgSmall.keepaliveByte ∧ (sampling 9 small).sbdK.val ≠ 10 := by
  decide
/-- Also for SampledMechanismIsTheFrame. -/
theorem witness_FrameRowsDecodeTenLevels :
    (serAt 0 3).sbdBusy = false ∧ (serAt 0 3).rbSer.tail < slots cfgSmall .ser := by decide
/-- `T_BIT` is 2000000 ticks; the shortest and the longest period within the bounds. -/
theorem witness_FrameReceivedWithinTolerance :
    (19 * cfgRef.bitTicks < 20 * 1900001 ∧ 18 * 1900001 < 19 * cfgRef.bitTicks) ∧
    (19 * cfgRef.bitTicks < 20 * 2111111 ∧ 18 * 2111111 < 19 * cfgRef.bitTicks) := by decide
/-- Awaiting an action, live and sequenced; a code that is neither note code. -/
theorem witness_EventRowsAssemble :
    (10#4 ≠ 9#4 ∧ 10#4 ≠ 8#4) ∧ (small.eaState = .awaitingAction ∧ small.cfg.mode = .live) ∧
    ((seqMode small).eaState = .awaitingAction ∧ (seqMode small).cfg.mode = .sequenced) := by decide
/-- Channel 2 the lowest free one; the lowest and highest key of the table and their neighbours. -/
theorem witness_LiveNoteOnTakesTheLowestFreeChannel :
    let s := keys 60#8 62#8 0x80#8
    (s.cfg.mode = .live ∧ 1#8 ≠ 0#8 ∧ s.assignedKey.length = s.cfg.nCh ∧
      s.assignedKey[2]? = some s.cfg.offSentinel ∧
      ∀ j, j < 2 → s.assignedKey[j]? ≠ some s.cfg.offSentinel) ∧
    (runs (exec (.vaEvent ⟨.noteOn, 0#4, 21#8, 1#8⟩) s)
        (fun t => t.clientResp == .pairs [(0#8, 2#8)]) = true ∧
      runs (exec (.vaEvent ⟨.noteOn, 0#4, 108#8, 1#8⟩) s)
        (fun t => t.clientResp == .pairs [(87#8, 2#8)]) = true ∧
      refuses (exec (.vaEvent ⟨.noteOn, 0#4, 20#8, 1#8⟩) s) .keyOutOfRange = true ∧
      refuses (exec (.vaEvent ⟨.noteOn, 0#4, 109#8, 1#8⟩) s) .keyOutOfRange = true) ∧
    (allBusy.cfg.mode = .live ∧ allBusy.assignedKey.length = allBusy.cfg.nCh ∧
      allBusy.cfg.offSentinel ∉ allBusy.assignedKey) := by decide
/-- Key 60 held by channels 0 and 2; key 61 by none; a NoteOff and a NoteOn of velocity 0. -/
theorem witness_LiveNoteOffReleasesTheLowestHolder :
    let s := keys 60#8 62#8 60#8
    s.cfg.mode = .live ∧ s.assignedKey.length = s.cfg.nCh ∧
    (s.assignedKey[0]? = some 60#8 ∧ ∀ j, j < 0 → s.assignedKey[j]? ≠ some 60#8) ∧
    61#8 ∉ s.assignedKey ∧ runs (exec (.vaEvent ⟨.noteOn, 0#4, 60#8, 0#8⟩) s)
      (fun t => t.assignedKey[0]? == some 0x80#8) = true := by decide
/-- MIDI channel 2 is mapped to three channels and channel 3 to none; keys 108 and 109. -/
theorem witness_SequencedEventsReachEveryMappedChannel :
    (seqMode small).Inv ∧ cfgSeq.Wf ∧ (seqMode small).cfg.mode = .sequenced ∧
    cfgSeq.seqMap.getD 2 [] = [2, 3, 4] ∧ cfgSeq.seqMap.getD 3 [] = [] ∧
    runs (exec (.vaEvent ⟨.noteOn, 2#4, 108#8, 1#8⟩) (seqMode small))
      (fun t => t.assignedKey[4]? == some 108#8) = true ∧
    refuses (exec (.vaEvent ⟨.noteOn, 2#4, 109#8, 1#8⟩) (seqMode small)) .keyOutOfRange = true ∧
    runs (exec (.vaEvent ⟨.noteOn, 3#4, 109#8, 1#8⟩) (seqMode small))
      (fun t => t.clientResp == .pairs []) = true ∧
    runs (exec (.vaEvent ⟨.noteOff, 2#4, 109#8, 1#8⟩) (seqMode small))
      (fun t => t.clientResp == .pairs [(0x80#8, 2#8), (0x80#8, 3#8), (0x80#8, 4#8)]) = true :=
  ⟨by decide, by decide +kernel, by decide⟩
theorem witness_OtherEventsChangeNothing :
    (⟨.other, 15#4, 0x80#8, 0x80#8⟩ : NoteEvent).action = .other := by decide
theorem witness_VelocityZeroActsAsNoteOff : (keys 60#8 62#8 60#8).Inv ∧ cfgSmall.Wf := by
  decide +kernel
/-- In `IDLE`, the two fields at any value. -/
theorem witness_PacketRowsReachTheScheduler :
    ({ small with pfState := .idle } : State).Inv ∧
    runs (exec (.pktOn 0xFF#8 0xFF#8) { small with pfState := .idle })
      (fun s => s.trace == [.packet 0xFF#8 0xFF#8, .drop (.pktRange 0xFF#8 0xFF#8)]) = true := by decide
/-- Channels 7 and 8, note codes 87 and 88. -/
theorem witness_PacketSwitchesOneChannel :
    small.ch.length = small.cfg.nCh ∧ (8#8 : Byte).toNat ≥ small.cfg.nCh ∧
    (88#8 ≠ small.cfg.offSentinel ∧ (88#8 : Byte).toNat ≥ small.cfg.nNotes) ∧
    small.ch[(7#8 : Byte).toNat]? = some ⟨false, 0, 0⟩ ∧
    small.cfg.intervalUs[(87#8 : Byte).toNat]? = some 239 := by decide
/-- A channel at its deadline. -/
theorem witness_CheckPulsesStrictlyAfterTheDeadline :
    (atUs 13822 ch2).Inv ∧ (atUs 13822 ch2).ch[(2#8 : Byte).toNat]? = some ⟨true, 3822, 13822⟩ := by
  decide
theorem witness_LoopChecksEveryChannel :
    (atUs 13823 ch2).Inv ∧ runs (exec .ssLoop (atUs 13823 ch2))
      (fun t => pulseCount 2 t.trace == 1 && pulseCount 3 t.trace == 0) = true := by decide
theorem witness_DeadlinesDoNotDrift :
    small.Inv ∧ (7#8 : Byte).toNat < small.cfg.nCh ∧ 87#8 ≠ small.cfg.offSentinel ∧
    small.cfg.intervalUs[(87#8 : Byte).toNat]? = some 239 := by decide
theorem witness_ChannelsAreIndependent :
    runs (exec (.ssCheck 2#8) (atUs 13823 ch2)) (fun _ => true) = true ∧
    runs (exec (.ssPacket 87#8 2#8) ch2) (fun _ => true) = true ∧ 3 ≠ (2#8 : Byte).toNat := by decide

end Sys2Proof.Tests
end

section
/-! PROOF. What every step keeps: `State.Advances`, the relation of a state to the next one, proved of each
operation once. The indices a sound state holds all name elements (R25, R33, R36, R60, R61), and this
weaker invariant is inductive by itself; the trace only grows (R14), the configuration stays (R38). -/

namespace Sys2Proof.Machine

open Sys2Proof

/-! ### The enqueue in progress -/

namespace State

@[simp] theorem setRing_enqOp (s : State) (r r' : RingId) (q : Ring) :
    (s.setRing r q).enqOp r' = s.enqOp r' := by cases r <;> cases r' <;> rfl

theorem enqOp_setEnqOp_of_ne (s : State) {r r' : RingId} (x : Option EnqOp) (h : r' ≠ r) :
    (s.setEnqOp r x).enqOp r' = s.enqOp r' := by
  cases r with
  | bus =>
    cases r' with
    | bus => exact absurd rfl h
    | ser => rfl
  | ser =>
    cases r' with
    | bus => rfl
    | ser => exact absurd rfl h

end State

/-! ### Indices that name elements -/

/-- Every index an enqueue in progress holds of its own side is below `n`. -/
def EnqPoint.Within (n : Nat) : EnqPoint → Prop
  | .m1 => True
  | .m2 t => t < n
  | .m3 t _ => t < n
  | .m4 t i => t < n ∧ i < n
  | .m5 i => i < n

/-- The index a dequeue or test in progress has still to read at is below `n`. -/
def DeqPoint.Within (n : Nat) : DeqPoint → Prop
  | .m1 => True
  | .m2 h => h < n
  | .m3 h _ => h < n
  | .m4 h => h < n
  | .m5 _ _ => True

/-- The parts of a state its indices live in hold no index outside (R60, R61). It speaks of the parts
and not of the state, so that an update of any other field keeps it by definition. -/
structure IndexBounds (c : Config) (ring : RingId → Ring) (enq : RingId → Option EnqOp)
    (deq : Option DeqOp) (channels keys : Nat) : Prop where
  head : ∀ r, (ring r).head < slots c r
  tail : ∀ r, (ring r).tail < slots c r
  enq : ∀ r op, enq r = some op → op.next.Within (slots c r)
  deq : ∀ op, deq = some op → op.next.Within (slots c op.ring)
  channels : channels = c.nCh
  keys : keys = c.nCh
  mapped : ∀ l ∈ c.seqMap, ∀ m ∈ l, m < c.nCh

/-- Every index the state holds names an element. -/
def State.InBounds (s : State) : Prop :=
  IndexBounds s.cfg s.ring s.enqOp s.clientOp s.ch.length s.assignedKey.length

/-- What an enqueue in progress holds is within its buffer if it agrees with it. -/
theorem EnqPoint.within_of_fits {n : Nat} {q : Ring} (ht : q.tail < n) {v : RbView} {p : EnqPoint}
    (h : p.fits v n q = true) : p.Within n := by
  have hn : nextIndex n q.tail < n := Nat.mod_lt _ (by omega)
  cases p <;> simp_all [EnqPoint.fits, EnqPoint.Within]

/-- What a dequeue in progress holds is within its buffer if it agrees with it. -/
theorem DeqPoint.within_of_fits {v : RbView} {n : Nat} {q : Ring} (hh : q.head < n) {p : DeqPoint}
    (h : p.fits v n q = true) : p.Within n := by
  cases p <;> simp_all [DeqPoint.fits, DeqPoint.Within]

/-- A sound ring buffer holds no index outside, and neither does the enqueue in progress on it. -/
theorem State.RingSound.within {r : RingId} {s : State} (h : s.RingSound r) :
    (s.ring r).head < slots s.cfg r ∧ (s.ring r).tail < slots s.cfg r ∧
      ∀ op, s.enqOp r = some op → op.next.Within (slots s.cfg r) := by
  obtain ⟨⟨-, -, hh, ht, -⟩, -, hf⟩ := h
  refine ⟨hh, ht, fun op hop => ?_⟩
  have hp : op.next.fits s.cfg.rbView (slots s.cfg r) (s.ring r) = true := by
    simpa [enqFits, hop] using hf
  exact EnqPoint.within_of_fits ht hp

/-- A sound state under a configuration that meets R7 and R9 holds no index outside. -/
theorem State.Inv.inBounds {s : State} (h : s.Inv) (hc : s.cfg.Wf) : s.InBounds := by
  obtain ⟨hbus, hser, hdeq, hch, -, hkeys, -⟩ := h
  obtain ⟨-, -, -, -, -, -, -, -, -, -, -, -, -, -, hmap⟩ := hc
  have ring : ∀ r, s.RingSound r := fun r => by cases r <;> assumption
  exact {
    head := fun r => (ring r).within.1
    tail := fun r => (ring r).within.2.1
    enq := fun r => (ring r).within.2.2
    deq := fun op hop => DeqPoint.within_of_fits (ring op.ring).within.1 (by simpa [deqFits, hop] using hdeq)
    channels := hch
    keys := hkeys
    mapped := fun l hl => (hmap l hl).2 }

/-! ### One state after another -/

/-- What a step of the model may do to a state `s`, giving `t`: the configuration stays (R38, R306), the
time and the trace only grow (R41, R14), and no index leaves its storage space (R61). An update of no
field this speaks of keeps it by definition: `⟨rfl, le_rfl, List.prefix_rfl, id⟩`. -/
structure State.Advances (s t : State) : Prop where
  cfg : t.cfg = s.cfg
  time : s.time ≤ t.time
  trace : s.trace <+: t.trace
  bounds : s.InBounds → t.InBounds

namespace State.Advances

theorem refl (s : State) : s.Advances s := ⟨rfl, le_rfl, List.prefix_rfl, id⟩

theorem trans {s t u : State} (h : s.Advances t) (h' : t.Advances u) : s.Advances u :=
  ⟨h'.cfg.trans h.cfg, h.time.trans h'.time, h.trace.trans h'.trace, h'.bounds ∘ h.bounds⟩

end State.Advances

/-- An outcome reached from `s` keeps what a step keeps: its next state advances `s`, and it is a fault
only where an index of `s` named no element. A refusal keeps anything. -/
def State.Safe (s : State) : Out → Prop
  | .next t => s.Advances t
  | .fault _ => ¬ s.InBounds
  | .refused _ => True

namespace State.Safe

theorem of_advances {s t : State} {o : Out} (h : s.Advances t) (ho : t.Safe o) : s.Safe o := by
  cases o with
  | next u => exact h.trans ho
  | fault f => exact fun hs => ho (h.bounds hs)
  | refused r => trivial

/-- A sequence is safe if its parts are. -/
theorem andThen {s : State} {o : Out} {f : State → Out} (ho : s.Safe o)
    (hf : ∀ t, s.Advances t → t.Safe (f t)) : s.Safe (andThen o f) := by
  cases o with
  | next t => exact of_advances ho (hf t ho)
  | fault x => exact ho
  | refused x => trivial

theorem forEach {α : Type} {f : α → State → Out} :
    ∀ (l : List α) (s : State), (∀ a ∈ l, ∀ t, s.Advances t → t.Safe (f a t)) →
      s.Safe (forEach f l s) := by
  intro l
  induction l with
  | nil => exact fun s _ => .refl s
  | cons a rest ih =>
    intro s h
    refine andThen (h a (by simp) s (.refl s)) fun t ht => ih t fun b hb u hu => ?_
    exact h b (by simp [hb]) u (ht.trans hu)

end State.Safe

/-! ### The state's updates -/

theorem advances_emit (s : State) (e : Event) : s.Advances (s.emit e) :=
  ⟨rfl, le_rfl, List.prefix_append _ _, id⟩

theorem advances_drop (s : State) (d : Drop) : s.Advances (s.drop d) := advances_emit s _

theorem advances_respond (s : State) (a : Agent) (x : Response) : s.Advances (s.respond a x) := by
  cases a <;> exact ⟨rfl, le_rfl, List.prefix_rfl, id⟩

theorem advances_useFree (s : State) : s.Advances s.useFree := ⟨rfl, le_rfl, List.prefix_rfl, id⟩

theorem advances_endHandler (r : RingId) (s : State) : s.Advances (endHandler r s) := by
  cases r <;> exact ⟨rfl, le_rfl, List.prefix_rfl, id⟩

theorem advances_passDelay (s : State) : s.Advances s.passDelay := by
  unfold State.passDelay
  split
  · exact .refl s
  · exact ⟨rfl, Nat.le_add_right _ _, List.prefix_rfl, id⟩

theorem advances_waitBus (s : State) (us : Nat) : s.Advances (s.waitBus us) := by
  rw [State.waitBus_eq]
  exact ⟨rfl, s.time_le_waitBus us, List.prefix_rfl, id⟩

/-- A ring buffer is replaced by one whose indices name elements. -/
theorem advances_setRing {r : RingId} {q : Ring} {s : State}
    (hh : s.InBounds → q.head < slots s.cfg r) (ht : s.InBounds → q.tail < slots s.cfg r) :
    s.Advances (s.setRing r q) := by
  refine ⟨by simp, by simp, by simp, fun hs => ?_⟩
  have rings : ∀ r', ((s.setRing r q).ring r').head < slots s.cfg r' ∧
      ((s.setRing r q).ring r').tail < slots s.cfg r' := by
    intro r'
    by_cases hr : r' = r
    · subst hr
      rw [State.ring_setRing]
      exact ⟨hh hs, ht hs⟩
    · rw [State.ring_setRing_of_ne s q hr]
      exact ⟨hs.head r', hs.tail r'⟩
  exact {
    head := fun r' => by simpa using (rings r').1
    tail := fun r' => by simpa using (rings r').2
    enq := by simpa using hs.enq
    deq := by simpa using hs.deq
    channels := by simpa using hs.channels
    keys := by simpa using hs.keys
    mapped := by simpa using hs.mapped }

/-- An enqueue in progress is replaced by one whose indices name cells. -/
theorem advances_setEnqOp {r : RingId} {o : Option EnqOp} {s : State}
    (ho : s.InBounds → ∀ op, o = some op → op.next.Within (slots s.cfg r)) :
    s.Advances (s.setEnqOp r o) := by
  refine ⟨by simp, by simp, by simp, fun hs => ?_⟩
  have enq : ∀ r' op, (s.setEnqOp r o).enqOp r' = some op → op.next.Within (slots s.cfg r') := by
    intro r' op hop
    by_cases hr : r' = r
    · subst hr
      exact ho hs op (by simpa using hop)
    · exact hs.enq r' op (by rwa [State.enqOp_setEnqOp_of_ne s o hr] at hop)
  exact {
    head := by simpa using hs.head
    tail := by simpa using hs.tail
    enq := by simpa using enq
    deq := by simpa using hs.deq
    channels := by simpa using hs.channels
    keys := by simpa using hs.keys
    mapped := by simpa using hs.mapped }

/-- The client's operation in progress is replaced by one whose index names a cell. -/
theorem advances_setClientOp {o : Option DeqOp} {s : State}
    (ho : s.InBounds → ∀ op, o = some op → op.next.Within (slots s.cfg op.ring)) :
    s.Advances { s with clientOp := o } :=
  ⟨rfl, le_rfl, List.prefix_rfl, fun hs =>
    ⟨hs.head, hs.tail, hs.enq, ho hs, hs.channels, hs.keys, hs.mapped⟩⟩

/-! ### Ring buffers -/

theorem advances_readHead (r : RingId) (s : State) : s.Advances (readHead r s).2 := by
  rcases readHead_cases r s with h | ⟨i, h, -⟩ <;> rw [h]
  · exact .refl s
  · refine State.Advances.trans (advances_setRing ?_ ?_) (advances_useFree _)
    · exact fun hs => hs.head r
    · exact fun hs => hs.tail r

theorem advances_readTail (r : RingId) (s : State) : s.Advances (readTail r s).2 := by
  rcases readTail_cases r s with h | ⟨i, h, -⟩ <;> rw [h]
  · exact .refl s
  · refine State.Advances.trans (advances_setRing ?_ ?_) (advances_useFree _)
    · exact fun hs => hs.head r
    · exact fun hs => hs.tail r

theorem advances_writeCell {r : RingId} {i : Nat} {b : Byte} {s t : State}
    (h : writeCell r i b s = .ok t) : s.Advances t := by
  obtain ⟨-, rfl⟩ := writeCell_cases h
  exact advances_setRing (fun hs => hs.head r) (fun hs => hs.tail r)

/-- A write faults on an index outside the buffer only (R60). -/
theorem le_of_writeCell_error {r : RingId} {i : Nat} {b : Byte} {s : State} {f : Fault}
    (h : writeCell r i b s = .error f) : slots s.cfg r ≤ i := by
  by_contra hi
  simp [writeCell, State.slotsOf, not_le.1 hi] at h

/-- A read faults on an index outside the buffer only (R60). -/
theorem le_of_readCell_error {r : RingId} {i : Nat} {s : State} {f : Fault}
    (h : readCell r i s = .error f) : slots s.cfg r ≤ i := by
  by_contra hi
  simp [readCell, State.slotsOf, not_le.1 hi] at h

theorem advances_publishTail {r : RingId} {n : Nat} {s : State}
    (hn : s.InBounds → n < slots s.cfg r) : s.Advances (publishTail r n s) :=
  advances_setRing (fun hs => hs.head r) hn

theorem advances_publishHead (r : RingId) (h : Nat) (v : Byte) (s : State) :
    s.Advances (publishHead r h v s) := by
  refine State.Advances.trans (advances_setRing ?_ ?_) (advances_emit _ _)
  · exact fun _ => nextIndex_lt s.cfg r h
  · exact fun hs => hs.tail r

theorem advances_enqueue {r : RingId} {b : Byte} {ok : Bool} {s t : State}
    (h : enqueue r b s = .ok (ok, t)) : s.Advances t := by
  have hread := advances_readHead r s
  rcases enqueue_cases h with ⟨-, -, rfl⟩ | ⟨-, -, u, hu, rfl⟩
  · exact hread.trans (advances_drop _ _)
  · have hwrite := hread.trans (advances_writeCell hu)
    refine hwrite.trans (advances_publishTail fun _ => ?_)
    rw [hwrite.cfg]
    exact nextIndex_lt s.cfg r _

theorem enqueue_error {r : RingId} {b : Byte} {s : State} {f : Fault}
    (h : enqueue r b s = .error f) : ¬ s.InBounds := by
  intro hs
  simp only [enqueue] at h
  split at h
  · simp at h
  · split at h
    · simp at h
    · rename_i hw
      have hle := le_of_writeCell_error hw
      rw [(advances_readHead r s).cfg] at hle
      exact absurd (hs.tail r) (not_lt.2 hle)

theorem advances_dequeue {r : RingId} {x : Option Byte} {s t : State}
    (h : dequeue r s = .ok (x, t)) : s.Advances t := by
  have hread := advances_readTail r s
  rcases dequeue_cases h with ⟨-, -, rfl⟩ | ⟨v, -, -, -, rfl⟩
  · exact hread
  · exact hread.trans (advances_publishHead _ _ _ _)

theorem dequeue_error {r : RingId} {s : State} {f : Fault}
    (h : dequeue r s = .error f) : ¬ s.InBounds := by
  intro hs
  simp only [dequeue] at h
  split at h
  · simp at h
  · split at h
    · simp at h
    · rename_i hr
      have hle := le_of_readCell_error hr
      rw [(advances_readTail r s).cfg] at hle
      exact absurd (hs.head r) (not_lt.2 hle)

theorem advances_testEmpty (r : RingId) (s : State) : s.Advances (testEmpty r s).2 :=
  advances_readTail r s

theorem safe_enqueueIgnoring (r : RingId) (b : Byte) (s : State) : s.Safe (enqueueIgnoring r b s) := by
  unfold enqueueIgnoring
  split
  · exact advances_enqueue ‹_›
  · exact enqueue_error ‹_›

theorem safe_execRbEnq (r : RingId) (b : Byte) (s : State) : s.Safe (execRbEnq r b s) := by
  unfold execRbEnq
  split
  · exact (advances_enqueue ‹_›).trans (advances_respond _ _ _)
  · exact enqueue_error ‹_›

theorem safe_execRbDeq (r : RingId) (s : State) : s.Safe (execRbDeq r s) := by
  unfold execRbDeq
  split
  · exact (advances_dequeue ‹_›).trans (advances_respond _ _ _)
  · exact dequeue_error ‹_›

theorem safe_execRbEmpty (r : RingId) (s : State) : s.Safe (execRbEmpty r s) :=
  (advances_testEmpty r s).trans (advances_respond _ _ _)

/-! ### Micro-steps of an enqueue -/

theorem advances_beginEnq (r : RingId) (b : Byte) (use : EnqUse) (s : State) :
    s.Advances (beginEnq r b use s) :=
  advances_setEnqOp fun _ op hop => by
    obtain rfl := Option.some.inj hop
    trivial

/-- After a change that advances `s`, the enqueue in progress goes on at point `p`, whose indices name
cells if those of `s` did. -/
theorem State.Advances.setEnqPoint {r : RingId} {b : Byte} {p : EnqPoint} {use : EnqUse} {s t : State}
    (h : s.Advances t) (hp : s.InBounds → p.Within (slots s.cfg r)) :
    s.Advances (t.setEnqOp r (some ⟨b, p, use⟩)) := by
  refine ⟨by simp [h.cfg], by simpa using h.time, by simpa using h.trace, fun hs => ?_⟩
  refine (advances_setEnqOp fun _ op hop => ?_).bounds (h.bounds hs)
  obtain rfl := Option.some.inj hop
  rw [h.cfg]
  exact hp hs

theorem advances_finishEnq (r : RingId) (use : EnqUse) (ok : Bool) (s : State) :
    s.Advances (finishEnq r use ok s) := by
  have hnone : s.Advances (s.setEnqOp r none) := advances_setEnqOp fun _ _ h => by simp at h
  cases use with
  | plain => exact hnone.trans (advances_respond _ _ _)
  | handler => exact hnone.trans ((advances_endHandler _ _).trans (advances_respond _ _ _))

theorem safe_enqMicro (r : RingId) (s : State) : s.Safe (enqMicro r s) := by
  unfold enqMicro
  split
  · trivial
  · rename_i op hop
    have hin : s.InBounds → op.next.Within (slots s.cfg r) := fun hs => hs.enq r op hop
    obtain ⟨b, p, use⟩ := op
    cases p with
    | m1 => exact (State.Advances.refl s).setEnqPoint fun hs => hs.tail r
    | m2 t =>
      exact (advances_readHead r s).setEnqPoint hin
    | m3 t h =>
      dsimp only
      split
      · exact (advances_drop _ _).trans (advances_finishEnq _ _ _ _)
      · exact (State.Advances.refl s).setEnqPoint fun hs => ⟨hin hs, nextIndex_lt s.cfg r t⟩
    | m4 t i =>
      dsimp only
      split
      · rename_i u hu
        exact (advances_writeCell hu).setEnqPoint fun hs => (hin hs).2
      · rename_i f hf
        exact fun hs => absurd (hin hs).1 (not_lt.2 (le_of_writeCell_error hf))
    | m5 i => exact (advances_publishTail hin).trans (advances_finishEnq _ _ _ _)

/-- A sequence that ends by answering the port of its agent is as safe as its first part. -/
theorem State.Safe.respond {s : State} {o : Out} (ho : s.Safe o) (a : Agent) (x : Response) :
    s.Safe (Machine.andThen o fun t => .next (t.respond a x)) :=
  ho.andThen fun t _ => advances_respond t a x

theorem safe_enqMicros (r : RingId) : ∀ (k : Nat) (s : State), s.Safe (enqMicros r k s) := by
  intro k
  induction k with
  | zero => exact fun s => .refl s
  | succ k ih =>
    intro s
    unfold enqMicros
    split
    · exact (safe_enqMicro r s).andThen fun t _ => ih t
    · exact .refl s

theorem safe_completeEnq (r : RingId) (s : State) : s.Safe (completeEnq r s) := safe_enqMicros r 5 s

/-! ### Framer -/

theorem advances_frameByte (v : Byte) (s : State) : s.Advances (frameByte v s).2 := by
  rcases frameByte_cases v s with ⟨-, -, h⟩ | ⟨-, -, h⟩ | ⟨-, -, h⟩ | ⟨-, -, h⟩ | ⟨-, h⟩ | ⟨-, h⟩ <;>
    rw [h]
  · exact ⟨rfl, le_rfl, List.prefix_rfl, id⟩
  · exact advances_drop _ _
  · exact ⟨rfl, le_rfl, List.prefix_rfl, id⟩
  · exact advances_drop _ _
  · exact ⟨rfl, le_rfl, List.prefix_rfl, id⟩
  · exact ⟨rfl, le_rfl, List.prefix_append _ _, id⟩

theorem safe_stepFramer (v : Byte) (s : State) : s.Safe (stepFramer v s) :=
  (advances_frameByte v s).trans (advances_respond _ _ _)

/-! ### Micro-steps of a dequeue -/

theorem safe_finishDeq (use : DeqUse) (x : Option Byte) (s : State) : s.Safe (finishDeq use x s) := by
  unfold finishDeq
  split
  · exact advances_respond _ _ _
  · trivial
  · exact safe_stepFramer _ _
  · exact advances_respond _ _ _
  · exact advances_respond _ _ _

theorem advances_endClientOp (s : State) : s.Advances { s with clientOp := none } :=
  advances_setClientOp fun _ _ h => by simp at h

theorem advances_beginDeq (r : RingId) (use : DeqUse) (s : State) : s.Advances (beginDeq r use s) :=
  advances_setClientOp fun _ op hop => by
    obtain rfl := Option.some.inj hop
    trivial

/-- After a change that advances `s`, the client's operation goes on at point `p`, whose index names a
cell if that of `s` did. -/
theorem State.Advances.setDeqPoint {r : RingId} {p : DeqPoint} {use : DeqUse} {s t : State}
    (h : s.Advances t) (hp : s.InBounds → p.Within (slots s.cfg r)) :
    s.Advances { t with clientOp := some ⟨r, p, use⟩ } := by
  refine ⟨h.cfg, h.time, h.trace, fun hs => ?_⟩
  refine (advances_setClientOp fun _ op hop => ?_).bounds (h.bounds hs)
  obtain rfl := Option.some.inj hop
  rw [h.cfg]
  exact hp hs

theorem safe_deqMicro {op : DeqOp} {s : State} (hop : s.clientOp = some op) : s.Safe (deqMicro op s) := by
  have hin : s.InBounds → op.next.Within (slots s.cfg op.ring) := fun hs => hs.deq op hop
  have hdone := advances_endClientOp s
  obtain ⟨r, p, use⟩ := op
  cases p with
  | m1 => exact (State.Advances.refl s).setDeqPoint fun hs => hs.head r
  | m2 h =>
    have htest : ∀ x, s.Advances ((readTail r { s with clientOp := none }).2.respond .client x) :=
      fun x => hdone.trans ((advances_readTail r _).trans (advances_respond _ _ _))
    have hread : s.Advances { (readTail r s).2 with
        clientOp := some ⟨r, .m3 h (readTail r s).1, use⟩ } := (advances_readTail r s).setDeqPoint hin
    cases use with
    | empty => exact htest _
    | hasdata => exact htest _
    | deq => exact hread
    | read => exact hread
    | framer => exact hread
  | m3 h t =>
    unfold deqMicro
    dsimp only
    split
    · exact .of_advances hdone (safe_finishDeq _ _ _)
    · exact (State.Advances.refl s).setDeqPoint hin
  | m4 h =>
    unfold deqMicro
    dsimp only
    split
    · exact (State.Advances.refl s).setDeqPoint fun _ => trivial
    · rename_i f hf
      exact fun hs => absurd (hin hs) (not_lt.2 (le_of_readCell_error hf))
  | m5 h v =>
    exact .of_advances (hdone.trans (advances_publishHead r h v _)) (safe_finishDeq _ _ _)

/-! ### Bus, both halves -/

theorem advances_clockEdge (s : State) : s.Advances (clockEdge s) := by
  unfold clockEdge
  split
  · exact ⟨rfl, le_rfl, List.prefix_append _ _, id⟩
  · exact ⟨rfl, le_rfl, List.prefix_rfl, id⟩

theorem advances_edgeIfListening (s : State) : s.Advances (edgeIfListening s) := by
  unfold edgeIfListening
  split
  · exact advances_clockEdge s
  · exact .refl s

/-- After a wait the writer changes the lines, its phase and who drives, and no more. -/
theorem advances_busLines (s : State) (us : Nat) (b : Byte) (l : Bool) (p : BuswPhase) (w : BusDriver) :
    s.Advances { s.waitBus us with d := b, clk := l, buswPhase := p, busDriver := w } :=
  (advances_waitBus s us).trans ⟨rfl, le_rfl, List.prefix_rfl, id⟩

theorem safe_drive (b : Byte) (s : State) : s.Safe (drive b s) := by
  unfold drive
  split
  · trivial
  · split
    · exact advances_busLines s _ _ _ _ _
    · trivial

theorem safe_assertClock (s : State) : s.Safe (assertClock s) := by
  unfold assertClock
  split
  · exact (advances_busLines s _ _ _ _ _).trans ((advances_emit _ _).trans (advances_edgeIfListening _))
  · trivial

theorem safe_deassertClock (s : State) : s.Safe (deassertClock s) := by
  unfold deassertClock
  split
  · exact advances_busLines s _ _ _ _ _
  · trivial

theorem advances_sampleBus (s : State) : s.Advances (sampleBus s).2 :=
  ⟨rfl, le_rfl, List.prefix_rfl, id⟩

theorem safe_serviceBus (s : State) : s.Safe (serviceBus s) := by
  unfold serviceBus
  split
  · exact .of_advances (advances_sampleBus s) (safe_enqueueIgnoring .bus _ _)
  · trivial

theorem safe_execBusrService (s : State) : s.Safe (execBusrService s) :=
  (safe_serviceBus s).respond _ _

theorem safe_serviceInHold (s : State) : s.Safe (serviceInHold s) := by
  unfold serviceInHold
  split
  · exact (safe_completeEnq .bus s).andThen fun t _ => safe_execBusrService t
  · exact .refl s

theorem safe_writeBus (b : Byte) (s : State) : s.Safe (writeBus b s) :=
  (safe_drive b s).andThen fun t _ => (safe_assertClock t).andThen fun u _ =>
    (safe_serviceInHold u).andThen fun v _ => safe_deassertClock v

theorem safe_remoteDrive (b : Byte) (s : State) : s.Safe (remoteDrive b s) := by
  unfold remoteDrive
  split
  · trivial
  · exact ⟨rfl, le_rfl, List.prefix_rfl, id⟩

theorem safe_remoteClock (l : Bool) (s : State) : s.Safe (remoteClock l s) := by
  unfold remoteClock
  split
  · trivial
  · have hset : s.Advances { s with clk := l, busDriver := .remote } :=
      ⟨rfl, le_rfl, List.prefix_rfl, id⟩
    dsimp only
    split
    · exact hset.trans (advances_edgeIfListening _)
    · exact hset

theorem safe_execBusSendpkt (f1 f2 : Byte) (s : State) : s.Safe (execBusSendpkt f1 f2 s) :=
  (State.Safe.forEach _ s fun b _ t _ => safe_writeBus b t).respond _ _

theorem safe_execByte (b : Byte) (s : State) : s.Safe (execByte b s) := by
  unfold execByte
  split
  · trivial
  · exact (safe_remoteDrive b s).andThen fun t _ => (safe_remoteClock true t).andThen fun u _ =>
      (safe_serviceInHold u).andThen fun v _ => safe_remoteClock false v

theorem safe_execBusRead (s : State) : s.Safe (execBusRead s) := by
  unfold execBusRead
  split
  · exact (advances_dequeue ‹_›).trans (advances_respond _ _ _)
  · trivial
  · exact dequeue_error ‹_›

theorem safe_execPfStep (s : State) : s.Safe (execPfStep s) := by
  unfold execPfStep
  split
  · exact .of_advances (advances_dequeue ‹_›) (safe_stepFramer _ _)
  · exact (advances_dequeue ‹_›).trans (advances_respond _ _ _)
  · exact dequeue_error ‹_›

/-! ### Serial bit decoder -/

theorem advances_startFrame (s : State) : s.Advances (startFrame s) := by
  rcases startFrame_cases s with ⟨-, h⟩ | ⟨-, h⟩ <;> rw [h]
  · exact .refl s
  · exact ⟨rfl, le_rfl, List.prefix_rfl, id⟩

theorem advances_takeSample (k : Fin 10) (s : State) : s.Advances (takeSample k s) :=
  ⟨rfl, le_max_left _ _, List.prefix_rfl, id⟩

theorem advances_loadFrame (w : Slots) (s : State) : s.Advances (loadFrame w s) :=
  (advances_startFrame s).trans ⟨rfl, le_rfl, List.prefix_rfl, id⟩

theorem safe_finishFrame (s : State) : s.Safe (finishFrame s) := by
  unfold finishFrame
  dsimp only
  split
  · exact (advances_drop _ _).trans (advances_endHandler _ _)
  · exact (safe_enqueueIgnoring _ _ s).andThen fun t _ => advances_endHandler _ t

theorem safe_wholeFrame (w : Slots) (s : State) : s.Safe (wholeFrame w s) := by
  unfold wholeFrame
  split
  · trivial
  · exact .of_advances (advances_loadFrame w s) (safe_finishFrame _)

theorem safe_execSbdSample (k : Fin 10) (s : State) : s.Safe (execSbdSample k s) := by
  unfold execSbdSample
  split
  · exact (advances_takeSample k s).trans (advances_respond _ _ _)
  · trivial

theorem safe_execSbdFinish (s : State) : s.Safe (execSbdFinish s) := by
  unfold execSbdFinish
  split
  · exact (safe_finishFrame s).respond _ _
  · trivial

/-! ### Assembler -/

theorem advances_assemble (b : Byte) (s : State) : s.Advances (assemble b s).2 := by
  rcases assemble_cases b s with ⟨-, -, h⟩ | ⟨-, -, -, h⟩ | ⟨-, h⟩ | ⟨-, h⟩ <;> rw [h]
  · exact ⟨rfl, le_rfl, List.prefix_rfl, id⟩
  · exact advances_drop _ _
  · exact ⟨rfl, le_rfl, List.prefix_rfl, id⟩
  · exact ⟨rfl, le_rfl, List.prefix_append _ _, id⟩

theorem safe_assembleStep (b : Byte) (s : State) : s.Safe (assembleStep b s) :=
  (advances_assemble b s).trans (advances_respond _ _ _)

theorem safe_assembleAll (l : List Byte) (s : State) : s.Safe (forEach assembleStep l s) :=
  .forEach l s fun b _ t _ => safe_assembleStep b t

/-! ### Allocator -/

theorem advances_assignKey (i : Nat) (k : Byte) (s : State) : s.Advances (assignKey i k s) :=
  ⟨rfl, le_rfl, List.prefix_rfl, fun hs =>
    ⟨hs.head, hs.tail, hs.enq, hs.deq, hs.channels, (List.length_set ..).trans hs.keys, hs.mapped⟩⟩

theorem safe_answerPairs (l : List (Byte × Byte)) (s : State) : s.Safe (answerPairs l s) :=
  advances_respond s _ _

theorem safe_liveOn (e : NoteEvent) (s : State) : s.Safe (liveOn e s) := by
  unfold liveOn
  split
  · exact .of_advances (advances_drop _ _) (safe_answerPairs _ _)
  · split
    · trivial
    · exact .of_advances (advances_assignKey _ _ _) (safe_answerPairs _ _)

theorem safe_liveOff (e : NoteEvent) (s : State) : s.Safe (liveOff e s) := by
  unfold liveOff
  split
  · exact .of_advances (advances_drop _ _) (safe_answerPairs _ _)
  · exact .of_advances (advances_assignKey _ _ _) (safe_answerPairs _ _)

/-- Every mapped channel is one of the unit's (R9). -/
theorem State.InBounds.mappedChannels_lt {s : State} (hs : s.InBounds) {h : Nibble} {m : Nat}
    (hm : m ∈ mappedChannels s.cfg h) : m < s.cfg.nCh := by
  unfold mappedChannels at hm
  rw [List.getD_eq_getElem?_getD] at hm
  cases hl : s.cfg.seqMap[h.toNat]? with
  | none => simp [hl] at hm
  | some l => exact hs.mapped l (List.mem_of_getElem? hl) m (by simpa [hl] using hm)

theorem safe_assignMapped {k : Byte} {h : Nibble} {m : Nat} {s : State}
    (hm : m ∈ mappedChannels s.cfg h) : s.Safe (assignMapped k m s) := by
  unfold assignMapped
  split
  · exact advances_assignKey _ _ _
  · rename_i hlen
    exact fun hs => hlen ((hs.mappedChannels_lt hm).trans_eq hs.keys.symm)

theorem safe_assignAllMapped (k : Byte) (h : Nibble) (s : State) :
    s.Safe (forEach (assignMapped k) (mappedChannels s.cfg h) s) :=
  .forEach _ s fun m hm t ht => safe_assignMapped (by rwa [ht.cfg])

theorem safe_seqOn (e : NoteEvent) (s : State) : s.Safe (seqOn e s) := by
  have hassign := safe_assignAllMapped e.key e.channel s
  unfold seqOn
  split
  · exact safe_answerPairs _ _
  · rename_i m ms hms
    rw [hms] at hassign
    split
    · trivial
    · exact hassign.andThen fun t _ => safe_answerPairs _ t

theorem safe_seqOff (e : NoteEvent) (s : State) : s.Safe (seqOff e s) :=
  (safe_assignAllMapped _ _ s).andThen fun t _ => safe_answerPairs _ t

theorem safe_execVaEvent (e : NoteEvent) (s : State) : s.Safe (execVaEvent e s) := by
  unfold execVaEvent
  cases s.cfg.mode with
  | live =>
    dsimp only
    split_ifs
    · exact safe_liveOn e s
    · exact safe_liveOff e s
    · exact safe_answerPairs _ s
  | sequenced =>
    dsimp only
    split_ifs
    · exact safe_seqOn e s
    · exact safe_seqOff e s
    · exact safe_answerPairs _ s

/-! ### Scheduler -/

theorem advances_setChannel (c : Nat) (k : Channel) (s : State) : s.Advances (setChannel c k s) :=
  ⟨rfl, le_rfl, List.prefix_rfl, fun hs =>
    ⟨hs.head, hs.tail, hs.enq, hs.deq, (List.length_set ..).trans hs.channels, hs.keys, hs.mapped⟩⟩

theorem advances_pulse (c t : Nat) (s : State) : s.Advances (pulse c t s) :=
  ⟨rfl, le_rfl, List.prefix_append _ _, id⟩

/-- A channel below `N_CH` has its record (R33). -/
theorem not_inBounds_of_noChannel {c : Nat} {s : State} (hc : c < s.cfg.nCh) (h : s.ch[c]? = none) :
    ¬ s.InBounds := fun hs =>
  absurd (List.getElem?_eq_none_iff.1 h) (not_le.2 (hc.trans_eq hs.channels.symm))

theorem safe_intake (f1 f2 : Byte) (s : State) : s.Safe (intake f1 f2 s) := by
  unfold intake
  split
  · exact advances_drop _ _
  · rename_i hc
    split
    · split
      · exact advances_setChannel _ _ _
      · exact not_inBounds_of_noChannel (not_le.1 hc) ‹_›
    · split
      · exact advances_drop _ _
      · split
        · exact advances_setChannel _ _ _
        · exact not_inBounds_of_noChannel (not_le.1 hc) ‹_›

theorem safe_check {c : Nat} {s : State} (hc : c < s.cfg.nCh) : s.Safe (check c s) := by
  unfold check
  split
  · exact not_inBounds_of_noChannel hc ‹_›
  · split
    · exact (advances_pulse _ _ _).trans (advances_setChannel _ _ _)
    · exact .refl s

theorem safe_checkAll : ∀ (cs : List Nat) (again : Bool) (s : State), (∀ c ∈ cs, c < s.cfg.nCh) →
    s.Safe (checkAll cs again s) := by
  intro cs
  induction cs with
  | nil => exact fun _ s _ => .refl s
  | cons c cs ih =>
    intro again s hcs
    have hc : c < s.cfg.nCh := hcs c (by simp)
    have hrest : ∀ t : State, t.cfg = s.cfg → ∀ c' ∈ cs, c' < t.cfg.nCh := fun t ht c' hc' => by
      rw [ht]
      exact hcs c' (by simp [hc'])
    have hwait : s.Advances (if again then s.passDelay else s) := by
      split
      · exact advances_passDelay s
      · exact .refl s
    unfold checkAll
    split
    · have hchecked : s.Safe (check c (if again then s.passDelay else s)) :=
        .of_advances hwait (safe_check (by rwa [hwait.cfg]))
      exact hchecked.andThen fun t ht => ih true t (hrest t ht.cfg)
    · exact (safe_check hc).andThen fun t ht => ih again t (hrest t ht.cfg)

theorem safe_execSsCheck (c : Byte) (s : State) : s.Safe (execSsCheck c s) := by
  unfold execSsCheck
  split
  · exact (safe_check ‹_›).respond _ _
  · trivial

theorem safe_execSsLoop (s : State) : s.Safe (execSsLoop s) :=
  (safe_checkAll _ false s fun _ hc => List.mem_range.1 hc).respond _ _

theorem safe_frameAndIntake (v : Byte) (s : State) : s.Safe (frameAndIntake v s) := by
  have hframe := advances_frameByte v s
  unfold frameAndIntake
  split <;> rename_i heq <;> rw [heq] at hframe
  · exact .of_advances hframe (safe_intake _ _ _)
  · exact hframe

theorem safe_framePacket (l : List Byte) (s : State) : s.Safe (forEach frameAndIntake l s) :=
  .forEach l s fun v _ t _ => safe_frameAndIntake v t

/-! ### Every operation and every request -/

theorem safe_exec (i : Instr) (s : State) : s.Safe (exec i s) := by
  cases i with
  | rbEnq r b => exact safe_execRbEnq r b s
  | rbDeq r => exact safe_execRbDeq r s
  | rbEmpty r => exact safe_execRbEmpty r s
  | busWrite b => exact (safe_writeBus b s).respond _ _
  | buswDrive b => exact (safe_drive b s).respond _ _
  | buswAssert => exact (safe_assertClock s).respond _ _
  | buswDeassert => exact (safe_deassertClock s).respond _ _
  | busSendpkt f1 f2 => exact safe_execBusSendpkt f1 f2 s
  | busSendready => exact (safe_writeBus _ s).respond _ _
  | busrEdge => exact (advances_clockEdge s).trans (advances_respond _ _ _)
  | busrService => exact safe_execBusrService s
  | busHasdata => exact (advances_testEmpty .bus s).trans (advances_respond _ _ _)
  | busRead => exact safe_execBusRead s
  | pfStep => exact safe_execPfStep s
  | sbdStart => exact (advances_startFrame s).trans (advances_respond _ _ _)
  | sbdSample k => exact safe_execSbdSample k s
  | sbdFinish => exact safe_execSbdFinish s
  | sbdFrame w => exact (safe_wholeFrame w s).respond _ _
  | eaByte b => exact safe_assembleStep b s
  | vaEvent e => exact safe_execVaEvent e s
  | ssPacket f1 f2 => exact (safe_intake f1 f2 s).respond _ _
  | ssCheck c => exact safe_execSsCheck c s
  | ssLoop => exact safe_execSsLoop s
  | byte b => exact safe_execByte b s
  | serData w => exact safe_wholeFrame w s
  | serKeepalive start stop => exact safe_wholeFrame _ s
  | pktOn n c => exact (safe_framePacket _ s).respond _ _
  | pktOff c => exact (safe_framePacket _ s).respond _ _
  | rdy => exact safe_stepFramer _ s
  | busbytePreReady b => exact safe_stepFramer b s
  | busbyteStart => exact safe_stepFramer _ s
  | busbyteUnsync b => exact safe_stepFramer b s
  | busbyteField1 b => exact safe_stepFramer b s
  | busbyteField2 b => exact safe_stepFramer b s
  | evtNoteon h k v => exact safe_assembleAll _ s
  | evtNoteoff h k v => exact safe_assembleAll _ s
  | evtOther a h k v => exact safe_assembleAll _ s
  | evtSeqdiscard a h => exact safe_assembleStep _ s

theorem advances_beginFinish (s : State) : s.Advances (beginFinish s) := by
  unfold beginFinish
  dsimp only
  split
  · exact (advances_drop _ _).trans ((advances_endHandler _ _).trans (advances_respond _ _ _))
  · exact advances_beginEnq _ _ _ _

theorem safe_beginOp (i : Instr) (s : State) : s.Safe (beginOp i s) := by
  unfold beginOp
  split
  case h_1 r b => exact advances_beginEnq r b .plain s
  case h_2 r => exact advances_beginDeq r .deq s
  case h_3 r => exact advances_beginDeq r .empty s
  case h_4 => exact advances_beginDeq .bus .hasdata s
  case h_5 => exact advances_beginDeq .bus .read s
  case h_6 => exact advances_beginDeq .bus .framer s
  case h_7 =>
    split
    · exact (advances_sampleBus s).trans (advances_beginEnq _ _ _ _)
    · trivial
  case h_8 =>
    split
    · exact advances_beginFinish s
    · trivial
  case h_9 w =>
    split
    · trivial
    · exact (advances_loadFrame w s).trans (advances_beginFinish _)
  case h_10 b => exact safe_drive b s
  case h_11 => exact safe_exec _ s

theorem safe_clientMicro (s : State) : s.Safe (clientMicro s) := by
  unfold clientMicro
  split
  · exact safe_deqMicro ‹_›
  · split
    · exact safe_assertClock s
    · exact (safe_deassertClock s).respond _ _
    · trivial

theorem safe_agentMicro (a : Agent) (s : State) : s.Safe (agentMicro a s) := by
  cases a with
  | client => exact safe_clientMicro s
  | busr => exact safe_enqMicro .bus s
  | sbd => exact safe_enqMicro .ser s
  | env => trivial

theorem safe_setTime (n : Nat) (s : State) : s.Safe (setTime n s) := by
  unfold setTime
  split
  · trivial
  · exact ⟨rfl, not_lt.1 ‹_›, List.prefix_rfl, id⟩

theorem safe_driveRx (l : Bool) (s : State) : s.Safe (driveRx l s) := by
  have hset : s.Advances { s with rx := l, rxWave := (s.time, l) :: s.rxWave } :=
    ⟨rfl, le_rfl, List.prefix_rfl, id⟩
  unfold driveRx
  dsimp only
  split
  · exact hset.trans (advances_startFrame _)
  · exact hset

theorem safe_driveBy (a : Agent) (b : Byte) (s : State) : s.Safe (driveBy a b s) := by
  cases a with
  | client =>
    unfold driveBy
    dsimp only
    split
    · trivial
    · exact (safe_drive b s).respond _ _
  | env => exact safe_remoteDrive b s
  | busr => trivial
  | sbd => trivial

theorem safe_sampleDuringDrive (a : Agent) (b : Byte) (s : State) :
    s.Safe (sampleDuringDrive a b s) := by
  unfold sampleDuringDrive
  split
  · trivial
  · split
    · refine (safe_driveBy a b s).andThen fun t _ => ?_
      exact (advances_sampleBus t).trans ((advances_useFree _).trans (advances_beginEnq _ _ _ _))
    · trivial

theorem safe_fetchAnd {run : Instr → State → Out} (hrun : ∀ i s, State.Safe s (run i s)) (a : Agent)
    (u : WireUnit) (s : State) : s.Safe (fetchAnd run a u s) := by
  unfold fetchAnd
  split
  · trivial
  · split
    · trivial
    · exact hrun _ s

theorem safe_perform (q : Request) (s : State) : s.Safe (perform q s) := by
  cases q with
  | op a u => exact safe_fetchAnd safe_exec a u s
  | start a u => exact safe_fetchAnd safe_beginOp a u s
  | micro a => exact safe_agentMicro a s
  | time n => exact safe_setTime n s
  | rx l => exact safe_driveRx l s
  | driveD b => exact safe_remoteDrive b s
  | driveClk l => exact safe_remoteClock l s
  | driveDuringSample a b => exact safe_sampleDuringDrive a b s

/-- What every step keeps, from every state. -/
theorem safe_step (s : State) : s.Safe (step s) := by
  unfold step advance
  split
  · exact .refl s
  · rename_i q rest _
    have htake : s.Advances { s with pending := rest } := ⟨rfl, le_rfl, List.prefix_rfl, id⟩
    exact .of_advances htake (safe_perform q _)

/-- A step that answers a next state advances the present one. -/
theorem advances_step {s t : State} (h : step s = .next t) : s.Advances t := by
  have := safe_step s
  rwa [h] at this

/-- A step faults only where an index of the state names no element. -/
theorem not_inBounds_of_step_fault {s : State} {f : Fault} (h : step s = .fault f) : ¬ s.InBounds := by
  have := safe_step s
  rwa [h] at this

end Sys2Proof.Machine

open Sys2Proof Sys2Proof.Machine

/-- Settles O9: a sound state holds no index outside its storage spaces, and a step faults only where
some index is. -/
theorem soundStepNeverFaults : Obligations.SoundStepNeverFaults := by
  unfold Obligations.SoundStepNeverFaults
  intro s f hinv hcfg hfault
  exact not_inBounds_of_step_fault hfault (hinv.inBounds hcfg)

/-- Settles O12: every step appends its events to the trace. -/
theorem traceOnlyGrows : Obligations.TraceOnlyGrows := by
  unfold Obligations.TraceOnlyGrows
  intro s t h
  obtain ⟨es, hes⟩ := (advances_step h).trace
  exact ⟨es, hes.symm⟩

/-- Settles O5: the fetch decodes, finds the discipline kept, and runs the instruction. -/
theorem stepRunsDecodedInstruction : Obligations.StepRunsDecodedInstruction := by
  unfold Obligations.StepRunsDecodedInstruction
  intro s a u rest i hpending hdecode hdisc
  have hctx : decode (State.context { s with pending := rest }) u = .ok i := hdecode
  simp only [step, advance, hpending, perform, fetchAnd, hctx, hdisc]
end

section
/-! PROOF. Micro-steps that follow one another without interruption make the whole operation (R12). -/

namespace Sys2Proof.Machine

open Sys2Proof

/-! ### The enqueue in progress is no part of what a ring buffer operation reads or writes -/

namespace State

@[simp] theorem setEnqOp_slotsOf (s : State) (r r' : RingId) (x : Option EnqOp) :
    (s.setEnqOp r x).slotsOf r' = s.slotsOf r' := by cases r <;> rfl

@[simp] theorem setEnqOp_setEnqOp (s : State) (r : RingId) (x y : Option EnqOp) :
    (s.setEnqOp r x).setEnqOp r y = s.setEnqOp r y := by cases r <;> rfl

@[simp] theorem setEnqOp_setRing (s : State) (r r' : RingId) (x : Option EnqOp) (q : Ring) :
    (s.setEnqOp r x).setRing r' q = (s.setRing r' q).setEnqOp r x := by cases r <;> cases r' <;> rfl

@[simp] theorem setEnqOp_useFree (s : State) (r : RingId) (x : Option EnqOp) :
    (s.setEnqOp r x).useFree = s.useFree.setEnqOp r x := by cases r <;> rfl

@[simp] theorem setEnqOp_drop (s : State) (r : RingId) (x : Option EnqOp) (d : Drop) :
    (s.setEnqOp r x).drop d = (s.drop d).setEnqOp r x := by cases r <;> rfl

/-- What is in progress already may be put in progress again. -/
theorem setEnqOp_self {s : State} {r : RingId} {x : Option EnqOp} (h : s.enqOp r = x) :
    s.setEnqOp r x = s := by
  subst h
  cases r <;> rfl

@[simp] theorem useFree_enqOp (s : State) (r : RingId) : s.useFree.enqOp r = s.enqOp r := by
  cases r <;> rfl

@[simp] theorem drop_enqOp (s : State) (r : RingId) (d : Drop) : (s.drop d).enqOp r = s.enqOp r := by
  cases r <;> rfl

end State

@[simp] theorem readHead_setEnqOp (r r' : RingId) (x : Option EnqOp) (s : State) :
    readHead r (s.setEnqOp r' x) = ((readHead r s).1, (readHead r s).2.setEnqOp r' x) := by
  unfold readHead
  cases hv : s.cfg.rbView <;> simp [hv]

@[simp] theorem writeCell_setEnqOp (r r' : RingId) (i : Nat) (b : Byte) (x : Option EnqOp) (s : State) :
    writeCell r i b (s.setEnqOp r' x) = (writeCell r i b s).map (·.setEnqOp r' x) := by
  simp only [writeCell, State.setEnqOp_slotsOf, State.setEnqOp_ring, State.setEnqOp_setRing]
  split <;> rfl

@[simp] theorem publishTail_setEnqOp (r r' : RingId) (n : Nat) (x : Option EnqOp) (s : State) :
    publishTail r n (s.setEnqOp r' x) = (publishTail r n s).setEnqOp r' x := by
  simp [publishTail]

@[simp] theorem readHead_slotsOf (r r' : RingId) (s : State) :
    (readHead r s).2.slotsOf r' = s.slotsOf r' := by
  rcases readHead_cases r s with h | ⟨i, h, -⟩ <;> simp [h]

@[simp] theorem readHead_enqOp (r r' : RingId) (s : State) :
    (readHead r s).2.enqOp r' = s.enqOp r' := by
  rcases readHead_cases r s with h | ⟨i, h, -⟩ <;> simp [h]

/-- RB.ENQ leaves what its producer has in progress as it was. -/
theorem enqueue_enqOp {r r' : RingId} {b : Byte} {s t : State} {ok : Bool}
    (h : enqueue r b s = .ok (ok, t)) : t.enqOp r' = s.enqOp r' := by
  rcases enqueue_cases h with ⟨-, -, rfl⟩ | ⟨-, -, u, hu, rfl⟩
  · simp
  · obtain ⟨-, rfl⟩ := writeCell_cases hu
    simp [publishTail]

@[simp] theorem finishEnq_setEnqOp (r : RingId) (use : EnqUse) (ok : Bool) (x : Option EnqOp) (s : State) :
    finishEnq r use ok (s.setEnqOp r x) = finishEnq r use ok s := by
  simp [finishEnq]

@[simp] theorem finishEnq_enqOp (r : RingId) (use : EnqUse) (ok : Bool) (s : State) :
    (finishEnq r use ok s).enqOp r = none := by
  cases r <;> cases use <;> rfl

/-! ### An enqueue begun and completed -/

theorem enqMicros_none {r : RingId} {s : State} (h : s.enqOp r = none) (k : Nat) :
    enqMicros r k s = .next s := by
  cases k <;> simp [enqMicros, h]

theorem enqMicros_succ (r : RingId) (k : Nat) (op : EnqOp) (s : State) :
    enqMicros r (k + 1) (s.setEnqOp r (some op)) =
      andThen (enqMicro r (s.setEnqOp r (some op))) (enqMicros r k) := by
  simp [enqMicros]

/-- The five micro-steps of R121 are RB.ENQ, at the end of which what it was part of completes. -/
theorem completeEnq_beginEnq (r : RingId) (b : Byte) (use : EnqUse) (s : State) :
    completeEnq r (beginEnq r b use s) =
      match enqueue r b s with
      | .ok (ok, t) => .next (finishEnq r use ok t)
      | .error f => .fault f := by
  have hmicros : completeEnq r (beginEnq r b use s) =
      andThen (if nextIndex (s.slotsOf r) (s.ring r).tail = (readHead r s).1 then
          .next (finishEnq r use false ((readHead r s).2.drop (.rbFull r b)))
        else .next ((readHead r s).2.setEnqOp r (some
          ⟨b, .m4 (s.ring r).tail (nextIndex (s.slotsOf r) (s.ring r).tail), use⟩)))
        (enqMicros r 2) := by
    simp [completeEnq, beginEnq, enqMicros_succ, enqMicro, andThen]
  rw [hmicros, enqueue]
  by_cases hfull : nextIndex (s.slotsOf r) (s.ring r).tail = (readHead r s).1
  · simp [hfull, andThen, enqMicros_none]
  · cases hw : writeCell r (s.ring r).tail b (readHead r s).2 <;>
      simp [hfull, hw, andThen, enqMicro, Except.map, enqMicros]

/-- RB.ENQ by itself, begun and completed, answers its producer. -/
theorem completeEnq_plain {r : RingId} {s : State} (h : s.enqOp r = none) (b : Byte) :
    completeEnq r (beginEnq r b .plain s) = execRbEnq r b s := by
  rw [completeEnq_beginEnq, execRbEnq]
  cases he : enqueue r b s with
  | error f => rfl
  | ok x =>
    obtain ⟨ok, t⟩ := x
    have ht : t.enqOp r = none := (enqueue_enqOp he).trans h
    simp only [finishEnq, State.setEnqOp_self ht]

/-- The enqueue of a handler, begun and completed, ends the handler and answers nothing. -/
theorem completeEnq_handler {r : RingId} {s : State} (h : s.enqOp r = none) (b : Byte) :
    completeEnq r (beginEnq r b .handler s) =
      andThen (enqueueIgnoring r b s) fun t =>
        .next ((endHandler r t).respond (producer r) .nothing) := by
  rw [completeEnq_beginEnq, enqueueIgnoring]
  cases he : enqueue r b s with
  | error f => rfl
  | ok x =>
    obtain ⟨ok, t⟩ := x
    have ht : t.enqOp r = none := (enqueue_enqOp he).trans h
    simp only [finishEnq, State.setEnqOp_self ht, andThen]

/-- The pack, the filter and the enqueue of a finished frame, begun and completed (R188, R190). -/
theorem completeEnq_beginFinish {s : State} (h : s.sbdOp = none) :
    completeEnq .ser (beginFinish s) =
      andThen (finishFrame s) fun t => .next (t.respond .sbd .nothing) := by
  unfold beginFinish finishFrame
  dsimp only
  split
  · exact completeEnq_none (by simpa [State.enqOp] using h)
  · rw [completeEnq_handler (show s.enqOp .ser = none from h)]
    cases enqueueIgnoring .ser (packData s.sbdS) s <;> rfl

theorem loadFrame_sbdOp (w : Slots) (s : State) : (loadFrame w s).sbdOp = s.sbdOp := by
  rcases startFrame_cases s with ⟨-, h⟩ | ⟨-, h⟩ <;> simp [loadFrame, h]

/-! ### The client's operation in progress -/

/-- The client's operation in progress replaced, as every micro-step of `deqMicro` does. -/
def State.setClientOp (s : State) (x : Option DeqOp) : State := { s with clientOp := x }

namespace State

@[simp] theorem setClientOp_cfg (s : State) (x : Option DeqOp) : (s.setClientOp x).cfg = s.cfg := rfl

@[simp] theorem setClientOp_freeCtr (s : State) (x : Option DeqOp) :
    (s.setClientOp x).freeCtr = s.freeCtr := rfl

@[simp] theorem setClientOp_clientOp (s : State) (x : Option DeqOp) : (s.setClientOp x).clientOp = x := rfl

@[simp] theorem setClientOp_slotsOf (s : State) (x : Option DeqOp) (r : RingId) :
    (s.setClientOp x).slotsOf r = s.slotsOf r := rfl

@[simp] theorem setClientOp_ring (s : State) (x : Option DeqOp) (r : RingId) :
    (s.setClientOp x).ring r = s.ring r := by cases r <;> rfl

@[simp] theorem setClientOp_setClientOp (s : State) (x y : Option DeqOp) :
    (s.setClientOp x).setClientOp y = s.setClientOp y := rfl

@[simp] theorem setClientOp_setRing (s : State) (x : Option DeqOp) (r : RingId) (q : Ring) :
    (s.setClientOp x).setRing r q = (s.setRing r q).setClientOp x := by cases r <;> rfl

@[simp] theorem setClientOp_useFree (s : State) (x : Option DeqOp) :
    (s.setClientOp x).useFree = s.useFree.setClientOp x := rfl

/-- What is in progress already may be put in progress again. -/
theorem setClientOp_self {s : State} {x : Option DeqOp} (h : s.clientOp = x) : s.setClientOp x = s := by
  subst h
  rfl

end State

@[simp] theorem readTail_setClientOp (r : RingId) (x : Option DeqOp) (s : State) :
    readTail r (s.setClientOp x) = ((readTail r s).1, (readTail r s).2.setClientOp x) := by
  unfold readTail
  cases hv : s.cfg.rbView <;> simp [hv]

@[simp] theorem readCell_setClientOp (r : RingId) (i : Nat) (x : Option DeqOp) (s : State) :
    readCell r i (s.setClientOp x) = readCell r i s := by
  simp [readCell]

@[simp] theorem readTail_clientOp (r : RingId) (s : State) : (readTail r s).2.clientOp = s.clientOp := by
  rcases readTail_cases r s with h | ⟨i, h, -⟩ <;> simp [h]

/-- RB.DEQ leaves what the client has in progress as it was. -/
theorem dequeue_clientOp {r : RingId} {s t : State} {x : Option Byte} (h : dequeue r s = .ok (x, t)) :
    t.clientOp = s.clientOp := by
  rcases dequeue_cases h with ⟨-, -, rfl⟩ | ⟨v, -, -, -, rfl⟩ <;> simp [publishHead]

/-! ### The micro-steps of a dequeue, one equation each (R122, R123) -/

/-- Whether what a dequeue is part of goes on past m2, to take a byte; the tests end there. -/
def DeqUse.takesByte : DeqUse → Bool
  | .deq => true
  | .read => true
  | .framer => true
  | .empty => false
  | .hasdata => false

theorem beginDeq_eq (r : RingId) (use : DeqUse) (s : State) :
    beginDeq r use s = s.setClientOp (some ⟨r, .m1, use⟩) := rfl

theorem deqMicro_m1 (r : RingId) (use : DeqUse) (s : State) :
    deqMicro ⟨r, .m1, use⟩ s = .next (s.setClientOp (some ⟨r, .m2 (s.ring r).head, use⟩)) := rfl

theorem deqMicro_m2 {use : DeqUse} (hu : use.takesByte = true) (r : RingId) (h : Nat) (s : State) :
    deqMicro ⟨r, .m2 h, use⟩ s =
      .next ((readTail r s).2.setClientOp (some ⟨r, .m3 h (readTail r s).1, use⟩)) := by
  cases use with
  | deq => rfl
  | read => rfl
  | framer => rfl
  | empty => cases hu
  | hasdata => cases hu

theorem deqMicro_m3 (r : RingId) (h t : Nat) (use : DeqUse) (s : State) :
    deqMicro ⟨r, .m3 h t, use⟩ s =
      if h = t then finishDeq use none (s.setClientOp none)
      else .next (s.setClientOp (some ⟨r, .m4 h, use⟩)) := rfl

theorem deqMicro_m4 (r : RingId) (h : Nat) (use : DeqUse) (s : State) :
    deqMicro ⟨r, .m4 h, use⟩ s =
      match readCell r h s with
      | .ok v => .next (s.setClientOp (some ⟨r, .m5 h v, use⟩))
      | .error f => .fault f := by
  cases hc : readCell r h s with
  | ok v => simp only [deqMicro, hc]; rfl
  | error f => simp only [deqMicro, hc]

theorem deqMicro_m5 (r : RingId) (h : Nat) (v : Byte) (use : DeqUse) (s : State) :
    deqMicro ⟨r, .m5 h v, use⟩ s =
      finishDeq use (some v) (publishHead r h v (s.setClientOp none)) := rfl

theorem clientMicros_none {s : State} (h : s.clientOp = none) (k : Nat) :
    clientMicros k s = .next s := by
  cases k <;> simp [clientMicros, h]

theorem clientMicros_succ (k : Nat) (op : DeqOp) (s : State) :
    clientMicros (k + 1) (s.setClientOp (some op)) =
      andThen (deqMicro op (s.setClientOp (some op))) (clientMicros k) := rfl

/-- The framer's step on a byte leaves what the client has in progress as it was. -/
theorem frameByte_clientOp (v : Byte) (s : State) : (frameByte v s).2.clientOp = s.clientOp := by
  rcases frameByte_cases v s with ⟨-, -, h⟩ | ⟨-, -, h⟩ | ⟨-, -, h⟩ | ⟨-, -, h⟩ | ⟨-, h⟩ | ⟨-, h⟩ <;>
    simp [h]

/-- After a dequeue has ended the client has no micro-step left. -/
theorem clientMicros_finishDeq {s : State} (h : s.clientOp = none) (use : DeqUse) (x : Option Byte)
    (k : Nat) : andThen (finishDeq use x s) (clientMicros k) = finishDeq use x s := by
  have hresp : ∀ y, clientMicros k (s.respond .client y) = .next (s.respond .client y) :=
    fun y => clientMicros_none (by simpa using h) k
  unfold finishDeq
  split
  · exact hresp _
  · rfl
  · exact clientMicros_none ((State.respond_clientOp _ _ _).trans ((frameByte_clientOp _ _).trans h)) k
  · exact hresp _
  · exact hresp _

/-! ### A dequeue or test begun and completed -/

/-- The five micro-steps of R122 are RB.DEQ, at the end of which what it was part of completes. -/
theorem clientMicros_beginDeq (use : DeqUse) (hu : use.takesByte = true) (r : RingId) {s : State}
    (h : s.clientOp = none) :
    clientMicros 5 (beginDeq r use s) =
      match dequeue r s with
      | .ok (x, t) => finishDeq use x t
      | .error f => .fault f := by
  have hmicros : clientMicros 5 (beginDeq r use s) =
      andThen (if (s.ring r).head = (readTail r s).1 then finishDeq use none (readTail r s).2
        else .next ((readTail r s).2.setClientOp (some ⟨r, .m4 (s.ring r).head, use⟩)))
        (clientMicros 2) := by
    simp [beginDeq_eq, clientMicros_succ, deqMicro_m1, deqMicro_m2 hu, deqMicro_m3, andThen,
      State.setClientOp_self ((readTail_clientOp r s).trans h)]
  have hnone : (readTail r s).2.clientOp = none := (readTail_clientOp r s).trans h
  rw [hmicros, dequeue]
  by_cases hempty : (s.ring r).head = (readTail r s).1
  · simp [hempty, clientMicros_finishDeq hnone]
  · cases hc : readCell r (s.ring r).head (readTail r s).2 with
    | error f => simp [hempty, hc, andThen, clientMicros_succ, deqMicro_m4]
    | ok v =>
      have hend : (publishHead r (s.ring r).head v (readTail r s).2).clientOp = none := by
        simpa [publishHead] using h
      simp only [hempty, hc, andThen, clientMicros_succ, deqMicro_m4, deqMicro_m5, if_false,
        readCell_setClientOp, State.setClientOp_setClientOp, State.setClientOp_self hnone]
      exact clientMicros_finishDeq hend use (some v) 0

/-- The two micro-steps of a test are the whole test (R123), whatever its m2 answers of the outcome. -/
theorem clientMicros_beginTest (r : RingId) (use : DeqUse) (answer : Bool → Bool)
    (hm2 : ∀ h s, deqMicro ⟨r, .m2 h, use⟩ s = .next ((readTail r (s.setClientOp none)).2.respond .client
      (.bool (answer (h == (readTail r (s.setClientOp none)).1))))) {s : State} (h : s.clientOp = none) :
    clientMicros 5 (beginDeq r use s) =
      .next ((testEmpty r s).2.respond .client (.bool (answer (testEmpty r s).1))) := by
  have hnone : (readTail r s).2.clientOp = none := (readTail_clientOp r s).trans h
  simp only [beginDeq_eq, clientMicros_succ, deqMicro_m1, hm2, andThen, testEmpty,
    State.setClientOp_setClientOp, State.setClientOp_ring, readTail_setClientOp,
    State.setClientOp_self hnone]
  exact clientMicros_none ((State.respond_clientOp _ _ _).trans hnone) 3

end Sys2Proof.Machine

open Sys2Proof Sys2Proof.Machine

/-- Settles O23: the five micro-steps of R121 carry the enqueue of RB.ENQ to its end. -/
theorem enqueueMicroStepsMakeTheOperation : Obligations.EnqueueMicroStepsMakeTheOperation := by
  unfold Obligations.EnqueueMicroStepsMakeTheOperation
  intro r b s hnone
  exact completeEnq_plain hnone b

/-- Settles O24: RB.DEQ, BUS.READ and PF.STEP are one dequeue each, RB.EMPTY and BUS.HASDATA one test. -/
theorem clientMicroStepsMakeTheOperation : Obligations.ClientMicroStepsMakeTheOperation := by
  unfold Obligations.ClientMicroStepsMakeTheOperation
  intro i r s hnone hi
  rcases hi with rfl | rfl | rfl | rfl | rfl
  · refine (clientMicros_beginDeq .deq rfl r hnone).trans ?_
    simp only [exec, execRbDeq]
    cases dequeue r s with
    | error f => rfl
    | ok x => rfl
  · exact clientMicros_beginTest r .empty id (fun _ _ => rfl) hnone
  · exact clientMicros_beginTest .bus .hasdata not (fun _ _ => rfl) hnone
  · refine (clientMicros_beginDeq .read rfl .bus hnone).trans ?_
    simp only [exec, execBusRead]
    cases dequeue .bus s with
    | error f => rfl
    | ok x => obtain ⟨x, t⟩ := x; cases x <;> rfl
  · refine (clientMicros_beginDeq .framer rfl .bus hnone).trans ?_
    simp only [exec, execPfStep]
    cases dequeue .bus s with
    | error f => rfl
    | ok x => obtain ⟨x, t⟩ := x; cases x <;> rfl

/-- Settles O25: what each handler does before its enqueue is the same at both grains, and the enqueue
begun and completed is the enqueue. -/
theorem engineMicroStepsMakeTheOperation : Obligations.EngineMicroStepsMakeTheOperation := by
  unfold Obligations.EngineMicroStepsMakeTheOperation
  intro w s
  refine ⟨fun hbusr => ?_, fun hsbd => ⟨?_, ?_⟩⟩
  · by_cases hirq : s.irqPending = true
    · simp only [beginOp, exec, execBusrService, serviceBus, hirq, if_true, andThen]
      have hsampled : (sampleBus s).2.enqOp .bus = none := hbusr
      exact completeEnq_handler hsampled s.d
    · simp only [beginOp, exec, execBusrService, serviceBus, hirq, andThen]
      rfl
  · by_cases hen : s.sbdBusy = true ∧ s.sbdK = 10
    · simp only [beginOp, exec, execSbdFinish, if_pos hen]
      exact completeEnq_beginFinish hsbd
    · simp only [beginOp, exec, execSbdFinish, if_neg hen, andThen]
  · by_cases hbusy : s.sbdBusy = true
    · simp only [beginOp, exec, execSbdFrame, wholeFrame, if_pos hbusy, andThen]
    · simp only [beginOp, exec, execSbdFrame, wholeFrame, if_neg hbusy]
      exact completeEnq_beginFinish ((loadFrame_sbdOp w s).trans hsbd)
end

section
/-! PROOF. An enqueue that runs inside a dequeue, under `IMMEDIATE` (R124, R127): at every point of the
dequeue, going on gives what a dequeue begun now would give, but for one: the test of m3 after an
empty `tail` was read. -/

namespace Sys2Proof.Machine

open Sys2Proof

/-! ### Outcomes -/

/-- Only what comes after the next state an outcome has matters. -/
theorem andThen_congr {o : Out} {f g : State → Out} (h : ∀ t, o = .next t → f t = g t) :
    andThen o f = andThen o g := by
  cases o with
  | next t => exact h t rfl
  | fault x => rfl
  | refused x => rfl

theorem andThen_eq_self {o : Out} {f : State → Out} (h : ∀ t, o = .next t → f t = .next t) :
    andThen o f = o :=
  (andThen_congr h).trans (by cases o <;> rfl)

theorem execAll_pair (i j : Instr) (s : State) :
    execAll [i, j] s = andThen (exec i s) (exec j) := by
  have hlast : forEach exec [j] = exec j := funext fun t => andThen_eq_self fun _ _ => rfl
  simp only [execAll, forEach] at hlast ⊢
  rw [hlast]

/-! ### The enqueue -/

theorem readHead_clientOp (r : RingId) (s : State) : (readHead r s).2.clientOp = s.clientOp := by
  rcases readHead_cases r s with h | ⟨i, h, -⟩ <;> simp [h]

/-- RB.ENQ leaves what the client has in progress as it was. -/
theorem enqueue_clientOp {r : RingId} {b : Byte} {s t : State} {ok : Bool}
    (h : enqueue r b s = .ok (ok, t)) : t.clientOp = s.clientOp := by
  rcases enqueue_cases h with ⟨-, -, rfl⟩ | ⟨-, -, u, hu, rfl⟩
  · exact readHead_clientOp r s
  · obtain ⟨-, rfl⟩ := writeCell_cases hu
    simp [publishTail, readHead_clientOp]

/-- The state RB.ENQ leaves under `IMMEDIATE` (R121). -/
def State.enqueued (r : RingId) (b : Byte) (s : State) : State :=
  if nextIndex (s.slotsOf r) (s.ring r).tail = (s.ring r).head then
    (s.drop (.rbFull r b)).respond (producer r) (.bool false)
  else
    (s.setRing r { s.ring r with
      buf := (s.ring r).buf.write (s.ring r).tail b
      tail := nextIndex (s.slotsOf r) (s.ring r).tail }).respond (producer r) (.bool true)

theorem execRbEnq_immediate {r : RingId} {s : State} (hv : s.cfg.rbView = .immediate)
    (ht : (s.ring r).tail < s.slotsOf r) (b : Byte) : execRbEnq r b s = .next (s.enqueued r b) := by
  unfold execRbEnq State.enqueued
  by_cases hfull : nextIndex (s.slotsOf r) (s.ring r).tail = (s.ring r).head
  · simp only [enqueue_immediate_full hv hfull, if_pos hfull]
  · simp only [enqueue_immediate_room hv ht hfull, if_neg hfull]

theorem execRbEnq_clientOp {r : RingId} {b : Byte} {s t : State} (h : execRbEnq r b s = .next t) :
    t.clientOp = s.clientOp := by
  unfold execRbEnq at h
  split at h
  · rename_i ok u hu
    obtain rfl := Host.Outcome.next.inj h
    exact (State.respond_clientOp _ _ _).trans (enqueue_clientOp hu)
  · simp at h

/-- RB.ENQ does not meet the client's operation in progress. -/
theorem enqueued_setClientOp (r : RingId) (b : Byte) (x : Option DeqOp) (s : State) :
    (s.setClientOp x).enqueued r b = (s.enqueued r b).setClientOp x := by
  by_cases hfull : nextIndex (s.slotsOf r) (s.ring r).tail = (s.ring r).head <;>
    simp only [State.enqueued, State.setClientOp_slotsOf, State.setClientOp_ring, hfull] <;>
    cases r <;> rfl

/-- RB.ENQ does not meet the client's response. -/
theorem enqueued_respond (r : RingId) (b : Byte) (x : Response) (s : State) :
    (s.respond .client x).enqueued r b = (s.enqueued r b).respond .client x := by
  have hslots : (s.respond .client x).slotsOf r = s.slotsOf r := rfl
  by_cases hfull : nextIndex (s.slotsOf r) (s.ring r).tail = (s.ring r).head <;>
    simp only [State.enqueued, hslots, State.respond_ring, hfull] <;>
    cases r <;> rfl

theorem enqueued_cfg (r : RingId) (b : Byte) (s : State) : (s.enqueued r b).cfg = s.cfg := by
  unfold State.enqueued
  split <;> simp

theorem enqueued_clientOp (r : RingId) (b : Byte) (s : State) :
    (s.enqueued r b).clientOp = s.clientOp := by
  unfold State.enqueued
  split <;> simp

theorem enqueued_head (r : RingId) (b : Byte) (s : State) :
    ((s.enqueued r b).ring r).head = (s.ring r).head := by
  unfold State.enqueued
  split <;> simp

/-- A buffer that holds a byte holds one after RB.ENQ. -/
theorem enqueued_nonempty {r : RingId} {s : State} (b : Byte) (h : (s.ring r).head ≠ (s.ring r).tail) :
    ((s.enqueued r b).ring r).head ≠ ((s.enqueued r b).ring r).tail := by
  unfold State.enqueued
  split
  · simpa using h
  · rename_i hroom
    simpa using Ne.symm hroom

/-- RB.ENQ leaves the oldest byte held as it was (R125 (3)). -/
theorem enqueued_oldest {r : RingId} {s : State} (b : Byte) (h : (s.ring r).head ≠ (s.ring r).tail) :
    ((s.enqueued r b).ring r).buf.read (s.ring r).head = (s.ring r).buf.read (s.ring r).head := by
  unfold State.enqueued
  split
  · simp
  · simpa using Memory.read_write_of_ne _ _ _ _ h.symm

/-! ### The dequeue -/

/-- Going on with a dequeue from this point gives what a dequeue begun now would give: its own index is
`head`, its test comes out as a test of the present `tail` would, and a byte it has read is the oldest. -/
def DeqPoint.Current (q : Ring) : DeqPoint → Prop
  | .m1 => True
  | .m2 h => h = q.head
  | .m3 h t => h = q.head ∧ (h = t ↔ q.head = q.tail)
  | .m4 h => h = q.head ∧ q.head ≠ q.tail
  | .m5 h v => h = q.head ∧ q.head ≠ q.tail ∧ v = q.buf.read q.head

/-- The micro-steps a dequeue has still to take, at most (R122). -/
def DeqPoint.remaining : DeqPoint → Nat
  | .m1 => 5
  | .m2 _ => 4
  | .m3 _ _ => 3
  | .m4 _ => 2
  | .m5 _ _ => 1

/-- `s` inside a dequeue on `r` by itself, the next micro-step being `p`. -/
def State.dequeuing (r : RingId) (p : DeqPoint) (s : State) : State :=
  s.setClientOp (some ⟨r, p, .deq⟩)

theorem execRbDeq_empty {r : RingId} {s : State} (hv : s.cfg.rbView = .immediate)
    (he : (s.ring r).head = (s.ring r).tail) :
    execRbDeq r s = .next (s.respond .client (.optByte none)) := by
  simp only [execRbDeq, dequeue_immediate_none hv he]

theorem execRbDeq_nonempty {r : RingId} {s : State} (hv : s.cfg.rbView = .immediate)
    (hh : (s.ring r).head < s.slotsOf r) (hne : (s.ring r).head ≠ (s.ring r).tail) :
    execRbDeq r s = .next ((publishHead r (s.ring r).head ((s.ring r).buf.read (s.ring r).head) s).respond
      .client (.optByte (some ((s.ring r).buf.read (s.ring r).head)))) := by
  simp only [execRbDeq, dequeue_immediate_some hv hh hne]

theorem execRbDeq_clientOp {r : RingId} {s t : State} (h : execRbDeq r s = .next t) :
    t.clientOp = s.clientOp := by
  unfold execRbDeq at h
  split at h
  · rename_i x u hu
    obtain rfl := Host.Outcome.next.inj h
    exact (State.respond_clientOp _ _ _).trans (dequeue_clientOp hu)
  · simp at h

section

variable {r : RingId} {s : State} (hv : s.cfg.rbView = .immediate)
  (hh : (s.ring r).head < s.slotsOf r) (hnone : s.clientOp = none)

include hv hh hnone

/-- One micro-step of a dequeue from a current point ends it as RB.DEQ, or leads to the next current
point and changes nothing else. -/
theorem deqMicro_current {p : DeqPoint} (hp : p.Current (s.ring r)) :
    deqMicro ⟨r, p, .deq⟩ (s.dequeuing r p) = execRbDeq r s ∨
    ∃ p', deqMicro ⟨r, p, .deq⟩ (s.dequeuing r p) = .next (s.dequeuing r p') ∧
      p'.Current (s.ring r) ∧ p'.remaining + 1 = p.remaining := by
  unfold State.dequeuing
  cases p with
  | m1 =>
    refine .inr ⟨.m2 (s.ring r).head, ?_, rfl, rfl⟩
    rw [deqMicro_m1, State.setClientOp_ring, State.setClientOp_setClientOp]
  | m2 h =>
    refine .inr ⟨.m3 h (s.ring r).tail, ?_, ⟨hp, by rw [hp]⟩, rfl⟩
    rw [deqMicro_m2 rfl, readTail_setClientOp, State.setClientOp_setClientOp, readTail_immediate hv]
  | m3 h t =>
    obtain ⟨rfl, htest⟩ := hp
    rw [deqMicro_m3, State.setClientOp_setClientOp, State.setClientOp_setClientOp,
      State.setClientOp_self hnone]
    by_cases he : (s.ring r).head = (s.ring r).tail
    · left
      rw [if_pos (htest.2 he), execRbDeq_empty hv he]
      rfl
    · right
      rw [if_neg fun ht => he (htest.1 ht)]
      exact ⟨.m4 (s.ring r).head, rfl, ⟨rfl, he⟩, rfl⟩
  | m4 h =>
    obtain ⟨rfl, hne⟩ := hp
    refine .inr ⟨.m5 (s.ring r).head ((s.ring r).buf.read (s.ring r).head), ?_, ⟨rfl, hne, rfl⟩, rfl⟩
    simp [deqMicro_m4, readCell, hh]
  | m5 h v =>
    obtain ⟨rfl, hne, rfl⟩ := hp
    left
    rw [deqMicro_m5, State.setClientOp_setClientOp, State.setClientOp_self hnone,
      execRbDeq_nonempty hv hh hne]
    rfl

/-- Any number of micro-steps of a dequeue from a current point end it as RB.DEQ, or lead to a current
point and change nothing else. -/
theorem clientMicros_current (k : Nat) {p : DeqPoint} (hp : p.Current (s.ring r)) :
    clientMicros k (s.dequeuing r p) = execRbDeq r s ∨
    ∃ p', clientMicros k (s.dequeuing r p) = .next (s.dequeuing r p') ∧
      p'.Current (s.ring r) ∧ p'.remaining + k = p.remaining := by
  induction k generalizing p with
  | zero => exact .inr ⟨p, rfl, hp, rfl⟩
  | succ k ih =>
    have hsucc : clientMicros (k + 1) (s.dequeuing r p) =
        andThen (deqMicro ⟨r, p, .deq⟩ (s.dequeuing r p)) (clientMicros k) := rfl
    rcases deqMicro_current hv hh hnone hp with h | ⟨p', h, hp', hrem⟩
    · left
      rw [hsucc, h]
      exact andThen_eq_self fun t ht => clientMicros_none ((execRbDeq_clientOp ht).trans hnone) k
    · have hstep : clientMicros (k + 1) (s.dequeuing r p) = clientMicros k (s.dequeuing r p') := by
        rw [hsucc, h]
        rfl
      rw [hstep]
      rcases ih hp' with h' | ⟨p'', h', hp'', hrem'⟩
      · exact .inl h'
      · exact .inr ⟨p'', h', hp'', by omega⟩

/-- A dequeue carried on from a current point to its end is RB.DEQ. -/
theorem clientMicros_complete {p : DeqPoint} (hp : p.Current (s.ring r)) :
    clientMicros 5 (s.dequeuing r p) = execRbDeq r s := by
  rcases clientMicros_current hv hh hnone 5 hp with h | ⟨p', -, -, hrem⟩
  · exact h
  · cases p <;> cases p' <;> simp [DeqPoint.remaining] at hrem

end

/-- A dequeue that has read an empty `tail` answers that there is nothing, whatever has come since. -/
theorem clientMicros_seenEmpty {r : RingId} {s : State} (hnone : s.clientOp = none) (h : Nat) :
    clientMicros 5 (s.dequeuing r (.m3 h h)) = .next (s.respond .client (.optByte none)) := by
  have hstep : deqMicro ⟨r, .m3 h h, .deq⟩ (s.dequeuing r (.m3 h h)) =
      .next (s.respond .client (.optByte none)) := by
    rw [deqMicro_m3, if_pos rfl, State.dequeuing, State.setClientOp_setClientOp,
      State.setClientOp_self hnone]
    rfl
  have hsucc : clientMicros 5 (s.dequeuing r (.m3 h h)) =
      andThen (deqMicro ⟨r, .m3 h h, .deq⟩ (s.dequeuing r (.m3 h h))) (clientMicros 4) := rfl
  rw [hsucc, hstep]
  exact clientMicros_none ((State.respond_clientOp _ _ _).trans hnone) 4

/-- An enqueue leaves a current point of the dequeue current, unless the dequeue has read an empty
`tail` and not tested it yet. -/
theorem DeqPoint.Current.enqueued {r : RingId} {s : State} {p : DeqPoint} (hp : p.Current (s.ring r))
    (b : Byte) : p.Current ((s.enqueued r b).ring r) ∨
      (p = .m3 (s.ring r).head (s.ring r).head ∧ (s.ring r).head = (s.ring r).tail) := by
  have hhead := enqueued_head r b s
  cases p with
  | m1 => exact .inl trivial
  | m2 h => exact .inl (Eq.trans hp hhead.symm)
  | m3 h t =>
    obtain ⟨rfl, htest⟩ := hp
    by_cases he : (s.ring r).head = (s.ring r).tail
    · exact .inr ⟨by rw [← htest.2 he], he⟩
    · exact .inl ⟨hhead.symm, iff_of_false (fun ht => he (htest.1 ht)) (enqueued_nonempty b he)⟩
  | m4 h =>
    obtain ⟨rfl, hne⟩ := hp
    exact .inl ⟨hhead.symm, enqueued_nonempty b hne⟩
  | m5 h v =>
    obtain ⟨rfl, hne, rfl⟩ := hp
    refine .inl ⟨hhead.symm, enqueued_nonempty b hne, ?_⟩
    rw [hhead, enqueued_oldest b hne]

/-! ### The enqueue inside the dequeue -/

/-- A dequeue on `r` begun, `k` of its micro-steps, a whole enqueue on `r`, and the rest of the dequeue. -/
def enqueueInside (r : RingId) (b : Byte) (k : Nat) (s : State) : Out :=
  andThen (clientMicros k (s.dequeuing r .m1)) fun t => andThen (execRbEnq r b t) (clientMicros 5)

/-- After the end of the dequeue the enqueue comes second. -/
theorem enqueueInside_of_done {r : RingId} {k : Nat} {s : State} (hnone : s.clientOp = none)
    (hdone : clientMicros k (s.dequeuing r .m1) = execRbDeq r s) (b : Byte) :
    enqueueInside r b k s = andThen (execRbDeq r s) (execRbEnq r b) := by
  unfold enqueueInside
  rw [hdone]
  refine andThen_congr fun t ht => andThen_eq_self fun u hu => clientMicros_none ?_ 5
  rw [execRbEnq_clientOp hu, execRbDeq_clientOp ht, hnone]

/-- Before the end of the dequeue, the dequeue goes on in the state the enqueue leaves. -/
theorem enqueueInside_of_running {r : RingId} {k : Nat} {p : DeqPoint} {s : State}
    (hv : s.cfg.rbView = .immediate) (ht : (s.ring r).tail < s.slotsOf r)
    (hrun : clientMicros k (s.dequeuing r .m1) = .next (s.dequeuing r p)) (b : Byte) :
    enqueueInside r b k s = clientMicros 5 ((s.enqueued r b).dequeuing r p) := by
  have hinside : execRbEnq r b (s.dequeuing r p) = .next ((s.enqueued r b).dequeuing r p) := by
    rw [State.dequeuing, execRbEnq_immediate (by simpa using hv) (by simpa [State.slotsOf] using ht),
      enqueued_setClientOp]
    rfl
  unfold enqueueInside
  rw [hrun, andThen, hinside, andThen]

end Sys2Proof.Machine

open Sys2Proof Sys2Proof.Machine

/-- Settles O26. An enqueue after the dequeue has ended comes second. One before comes first, if going on
with the dequeue gives what a dequeue begun after the enqueue would; else the dequeue has read an
empty `tail`, and the enqueue comes second again. -/
theorem interleavedEnqueueLinearises : Obligations.InterleavedEnqueueLinearises := by
  unfold Obligations.InterleavedEnqueueLinearises
  intro r b s k hv hsound hnone _
  obtain ⟨-, -, hh, ht, -⟩ := hsound
  dsimp only
  rw [execAll_pair, execAll_pair]
  change enqueueInside r b k s = andThen (execRbEnq r b s) (execRbDeq r) ∨
    enqueueInside r b k s = andThen (execRbDeq r s) (execRbEnq r b)
  have hbegun : DeqPoint.m1.Current (s.ring r) := trivial
  rcases clientMicros_current hv hh hnone k hbegun with hdone | ⟨p, hrun, hp, -⟩
  · exact .inr (enqueueInside_of_done hnone hdone b)
  · rw [enqueueInside_of_running hv ht hrun]
    have hnone' : (s.enqueued r b).clientOp = none := (enqueued_clientOp r b s).trans hnone
    rcases hp.enqueued b with hp' | ⟨rfl, he⟩
    · left
      have hcfg := enqueued_cfg r b s
      have hh' : ((s.enqueued r b).ring r).head < (s.enqueued r b).slotsOf r := by
        rwa [enqueued_head, State.slotsOf, hcfg]
      rw [clientMicros_complete (by rwa [hcfg]) hh' hnone' hp', execRbEnq_immediate hv ht, andThen]
    · right
      rw [clientMicros_seenEmpty hnone', execRbDeq_empty hv he, andThen,
        execRbEnq_immediate (by simpa using hv) (by simpa [State.slotsOf] using ht), enqueued_respond]
end

section
/-! PROOF. The invariant of a ring buffer at micro-step grain (R72, R125): `Ring.Coherent` ties the buffer
to the point of its producer's enqueue and of its consumer's dequeue, and one lemma per micro-step keeps
it. Distances around the buffer (`ahead`) carry the arithmetic: every step moves one of them by one. -/

namespace Sys2Proof.Machine

open Sys2Proof

/-! ### Distances -/

/-- An index that lies behind `c` by no more than `a` does splits the distance from `a` to `c`. -/
theorem ahead_split {n a b c : Nat} (ha : a < n) (hb : b < n) (hc : c < n)
    (h : ahead n b c ≤ ahead n a c) : ahead n a b + ahead n b c = ahead n a c := by
  rw [ahead_eq hb hc, ahead_eq ha hc] at *
  rw [ahead_eq ha hb]
  split_ifs at * <;> omega

/-- The cells that hold a byte are none of them cell `tail` (R125 (3)). -/
theorem add_mod_ne_of_lt_ahead {n a b k : Nat} (ha : a < n) (hb : b < n) (hk : k < ahead n a b) :
    (a + k) % n ≠ b := by
  rw [ahead_eq ha hb] at hk
  rcases lt_or_ge (a + k) n with h | h
  · rw [Nat.mod_eq_of_lt h]
    split at hk <;> omega
  · rw [Nat.mod_eq_sub_mod h, Nat.mod_eq_of_lt (by split at hk <;> omega)]
    split at hk <;> omega

/-! ### What agrees with a ring buffer -/

theorem EnqPoint.fits_m2 {v : RbView} {n : Nat} {q : Ring} {t : Nat} :
    (EnqPoint.m2 t).fits v n q = true ↔ t = q.tail := by simp [fits]

theorem EnqPoint.fits_m3 {v : RbView} {n : Nat} {q : Ring} {t h : Nat} :
    (EnqPoint.m3 t h).fits v n q = true ↔ t = q.tail ∧ h < n ∧
      q.count n + ahead n h q.head ≤ n - 1 ∧ isView v h q.seenHead = true := by
  simp [fits, and_assoc]

theorem EnqPoint.fits_m4 {v : RbView} {n : Nat} {q : Ring} {t i : Nat} :
    (EnqPoint.m4 t i).fits v n q = true ↔ t = q.tail ∧ i = nextIndex n q.tail ∧
      q.count n + q.headLag v n + 2 ≤ n := by
  simp [fits, and_assoc]

theorem EnqPoint.fits_m5 {v : RbView} {n : Nat} {q : Ring} {i : Nat} :
    (EnqPoint.m5 i).fits v n q = true ↔
      i = nextIndex n q.tail ∧ q.count n + q.headLag v n + 2 ≤ n := by
  simp [fits]

theorem DeqPoint.fits_m2 {v : RbView} {n : Nat} {q : Ring} {h : Nat} :
    (DeqPoint.m2 h).fits v n q = true ↔ h = q.head := by simp [fits]

theorem DeqPoint.fits_m3 {v : RbView} {n : Nat} {q : Ring} {h t : Nat} :
    (DeqPoint.m3 h t).fits v n q = true ↔ h = q.head ∧ t < n ∧
      ahead n h t ≤ q.count n ∧ isView v t q.seenTail = true := by
  simp [fits, and_assoc]

theorem DeqPoint.fits_m4 {v : RbView} {n : Nat} {q : Ring} {h : Nat} :
    (DeqPoint.m4 h).fits v n q = true ↔ h = q.head ∧ 1 + q.tailLag v n ≤ q.count n := by
  simp [fits]

theorem DeqPoint.fits_m5 {v : RbView} {n : Nat} {q : Ring} {h : Nat} {b : Byte} :
    (DeqPoint.m5 h b).fits v n q = true ↔
      h = q.head ∧ 1 + q.tailLag v n ≤ q.count n ∧ b = q.buf.read q.head := by
  simp [fits, and_assoc]

/-- A ring buffer of `n` cells is sound, its views are, and the points its producer's enqueue and its
consumer's dequeue have reached, if any, agree with it. -/
structure Ring.Coherent (v : RbView) (n : Nat) (q : Ring) (e : Option EnqPoint) (d : Option DeqPoint) :
    Prop where
  sound : q.Sound n
  views : q.ViewSound v n
  enq : ∀ p ∈ e, p.fits v n q = true
  deq : ∀ p ∈ d, p.fits v n q = true

namespace Ring.Coherent

variable {v : RbView} {n : Nat} {q : Ring} {e : Option EnqPoint} {d : Option DeqPoint}

/-- The enqueue goes on at a point that agrees with the buffer, or ends. -/
theorem withEnq (h : q.Coherent v n e d) {e' : Option EnqPoint} (he : ∀ p ∈ e', p.fits v n q = true) :
    q.Coherent v n e' d := ⟨h.sound, h.views, he, h.deq⟩

/-- The dequeue goes on at a point that agrees with the buffer, or ends. -/
theorem withDeq (h : q.Coherent v n e d) {d' : Option DeqPoint} (hd : ∀ p ∈ d', p.fits v n q = true) :
    q.Coherent v n e d' := ⟨h.sound, h.views, h.enq, hd⟩

theorem endEnq (h : q.Coherent v n e d) : q.Coherent v n none d := h.withEnq (by simp)

theorem endDeq (h : q.Coherent v n e d) : q.Coherent v n e none := h.withDeq (by simp)

/-! ### The enqueue (R121) -/

theorem enq_m1 (h : q.Coherent v n e d) : q.Coherent v n (some (.m2 q.tail)) d :=
  h.withEnq (by simp [EnqPoint.fits_m2])

theorem enq_m2_immediate (h : q.Coherent .immediate n e d) :
    q.Coherent .immediate n (some (.m3 q.tail q.head)) d := by
  obtain ⟨-, -, hh, -⟩ := h.sound
  refine h.withEnq ?_
  simpa [EnqPoint.fits_m3, isView, ahead_self hh, hh, Ring.headLag] using h.views.1

/-- Under `STALE` the producer notes what it sees, which brings its view nearer (R72). -/
theorem enq_m2_stale (h : q.Coherent .stale n e d) {i : Nat} (hi : i < n)
    (hbetween : ahead n q.heldHead i + ahead n i q.head = ahead n q.heldHead q.head) :
    Ring.Coherent .stale n { q with seenHead := i, heldHead := q.head } (some (.m3 q.tail i)) d := by
  obtain ⟨hwf, hlt, hh, ht, hsh, hst, hhh, hht⟩ := h.sound
  obtain ⟨hhead, htail⟩ := h.views
  have hself := ahead_self hh
  have hroom : q.count n + ahead n i q.head ≤ n - 1 := by
    simp only [Ring.headLag] at hhead
    omega
  refine ⟨⟨hwf, hlt, hh, ht, hi, hst, hh, hht⟩, ⟨?_, htail⟩, ?_, h.deq⟩
  · show q.count n + (ahead n i q.head + ahead n q.head q.head) ≤ n - 1
    omega
  · rintro p ⟨⟩
    exact EnqPoint.fits_m3.2 ⟨rfl, hi, hroom, by simp [isView]⟩

/-- Past its test the enqueue has room for one byte, whatever the producer saw (R125). -/
theorem enq_m3 {t i : Nat} (h : q.Coherent v n (some (.m3 t i)) d) (hne : nextIndex n t ≠ i) :
    q.Coherent v n (some (.m4 t (nextIndex n t))) d := by
  obtain ⟨-, -, hh, ht, hsh, -, hhh, -⟩ := h.sound
  obtain ⟨rfl, hi, hroom, hview⟩ := EnqPoint.fits_m3.1 (h.enq _ rfl)
  have hsum : ahead n i q.tail = ahead n i q.head + q.count n :=
    ahead_add hi hh ht (by unfold Ring.count at hroom; omega)
  have hnotfull : ahead n i q.tail ≠ n - 1 := fun hf => hne ((nextIndex_eq_iff hi ht).2 hf)
  have hlag : q.headLag v n ≤ ahead n i q.head := by
    cases v with
    | immediate => exact Nat.zero_le _
    | stale =>
      obtain rfl : i = q.seenHead := by simpa [isView] using hview
      have hviews := h.views.1
      simp only [Ring.headLag] at hviews ⊢
      rw [ahead_add hsh hhh hh (by omega)]
  refine h.withEnq ?_
  simp only [Option.mem_some_iff, forall_eq', EnqPoint.fits_m4, true_and]
  omega

/-- The cell written is none of those held, so the byte a dequeue has read is still the oldest. -/
theorem enq_m4 {t i : Nat} (h : q.Coherent v n (some (.m4 t i)) d) (b : Byte) :
    Ring.Coherent v n { q with buf := q.buf.write t b } (some (.m5 i)) d := by
  obtain ⟨hwf, hlt, hh, ht, hrest⟩ := h.sound
  obtain ⟨rfl, hi, hroom⟩ := EnqPoint.fits_m4.1 (h.enq _ rfl)
  refine ⟨⟨Memory.write_wf hwf _ _, Memory.write_lt b hlt ht, hh, ht, hrest⟩, h.views, ?_, ?_⟩
  · simpa [EnqPoint.fits_m5] using ⟨hi, hroom⟩
  · intro p hp
    have hfits := h.deq p hp
    cases p with
    | m1 => rfl
    | m2 j => exact hfits
    | m3 j k => exact hfits
    | m4 j => exact hfits
    | m5 j c =>
      obtain ⟨hj, hheld, hc⟩ := DeqPoint.fits_m5.1 hfits
      have hne : q.tail ≠ q.head := by
        rintro heq
        simp [Ring.count, heq, ahead_self hh] at hheld
      exact DeqPoint.fits_m5.2 ⟨hj, hheld, by rw [hc, Memory.read_write_of_ne _ _ _ _ hne]⟩

/-- Publication adds one byte to those held, and the consumer's view falls one further behind. -/
theorem enq_m5 {i : Nat} (h : q.Coherent v n (some (.m5 i)) d) :
    Ring.Coherent v n { q with tail := i } none d := by
  obtain ⟨hwf, hlt, hh, ht, hsh, hst, hhh, hht⟩ := h.sound
  obtain ⟨hhead, htail⟩ := h.views
  obtain ⟨rfl, hroom⟩ := EnqPoint.fits_m5.1 (h.enq _ rfl)
  have hcount : Ring.count n { q with tail := nextIndex n q.tail } = q.count n + 1 :=
    ahead_nextIndex_right (a := q.head) hh ht (by unfold Ring.count at hroom; omega)
  have hlag : Ring.tailLag v n { q with tail := nextIndex n q.tail } ≤ q.tailLag v n + 1 := by
    cases v with
    | immediate => exact Nat.zero_le _
    | stale =>
      simp only [Ring.tailLag] at htail ⊢
      rw [ahead_nextIndex_right hht ht (by omega)]
      omega
  refine ⟨⟨hwf, hlt, hh, Nat.mod_lt _ (by omega), hsh, hst, hhh, hht⟩, ⟨?_, by omega⟩, by simp, ?_⟩
  · show _ + q.headLag v n ≤ n - 1
    omega
  · intro p hp
    have hfits := h.deq p hp
    cases p with
    | m1 => rfl
    | m2 j => exact hfits
    | m3 j k =>
      obtain ⟨hj, hk, hle, hview⟩ := DeqPoint.fits_m3.1 hfits
      exact DeqPoint.fits_m3.2 ⟨hj, hk, by omega, hview⟩
    | m4 j =>
      obtain ⟨hj, hle⟩ := DeqPoint.fits_m4.1 hfits
      exact DeqPoint.fits_m4.2 ⟨hj, by omega⟩
    | m5 j c =>
      obtain ⟨hj, hle, hc⟩ := DeqPoint.fits_m5.1 hfits
      exact DeqPoint.fits_m5.2 ⟨hj, by omega, hc⟩

/-! ### The dequeue (R122) -/

theorem deq_m1 (h : q.Coherent v n e d) : q.Coherent v n e (some (.m2 q.head)) :=
  h.withDeq (by simp [DeqPoint.fits_m2])

theorem deq_m2_immediate (h : q.Coherent .immediate n e d) :
    q.Coherent .immediate n e (some (.m3 q.head q.tail)) := by
  obtain ⟨-, -, -, ht, -⟩ := h.sound
  exact h.withDeq (by simp [DeqPoint.fits_m3, isView, ht, Ring.count])

/-- Under `STALE` the consumer notes what it sees, which brings its view nearer (R72). -/
theorem deq_m2_stale (h : q.Coherent .stale n e d) {i : Nat} (hi : i < n)
    (hbetween : ahead n q.heldTail i + ahead n i q.tail = ahead n q.heldTail q.tail) :
    Ring.Coherent .stale n { q with seenTail := i, heldTail := q.tail } e (some (.m3 q.head i)) := by
  obtain ⟨hwf, hlt, hh, ht, hsh, hst, hhh, hht⟩ := h.sound
  obtain ⟨hhead, htail⟩ := h.views
  have hself := ahead_self ht
  have hle : ahead n i q.tail ≤ ahead n q.head q.tail := by
    simp only [Ring.tailLag, Ring.count] at htail
    omega
  have hsum := ahead_split hh hi ht hle
  refine ⟨⟨hwf, hlt, hh, ht, hsh, hi, hhh, ht⟩, ⟨hhead, ?_⟩, h.enq, ?_⟩
  · show ahead n i q.tail + ahead n q.tail q.tail ≤ ahead n q.head q.tail
    omega
  · have hseen : ahead n q.head i ≤ Ring.count n q := by unfold Ring.count; omega
    rintro p ⟨⟩
    exact DeqPoint.fits_m3.2 ⟨rfl, hi, hseen, by simp [isView]⟩

/-- Past its test the dequeue has a byte to take, whatever the consumer saw (R125). -/
theorem deq_m3 {j i : Nat} (h : q.Coherent v n e (some (.m3 j i))) (hne : j ≠ i) :
    q.Coherent v n e (some (.m4 j)) := by
  obtain ⟨-, -, hh, ht, -, hst, -, hht⟩ := h.sound
  obtain ⟨rfl, hi, hle, hview⟩ := DeqPoint.fits_m3.1 (h.deq _ rfl)
  have hpos : ahead n q.head i ≠ 0 := fun h0 => hne ((ahead_eq_zero hh hi).1 h0)
  have hbyte : 1 + q.tailLag v n ≤ q.count n := by
    cases v with
    | immediate =>
      simp only [Ring.tailLag]
      omega
    | stale =>
      obtain rfl : i = q.seenTail := by simpa [isView] using hview
      have hviews := h.views.2
      have hcount : q.count n < n := ahead_lt (by omega)
      simp only [Ring.tailLag] at hviews ⊢
      have hlag := ahead_add hst hht ht (by omega)
      have hsum := ahead_split hh hst ht (by unfold Ring.count at hviews; omega)
      unfold Ring.count
      omega
  refine h.withDeq ?_
  simpa [DeqPoint.fits_m4] using hbyte

theorem deq_m4 {j : Nat} (h : q.Coherent v n e (some (.m4 j))) :
    q.Coherent v n e (some (.m5 j (q.buf.read j))) := by
  obtain ⟨rfl, hle⟩ := DeqPoint.fits_m4.1 (h.deq _ rfl)
  exact h.withDeq (by simpa [DeqPoint.fits_m5] using hle)

/-- Publication takes one byte away from those held, and the producer's view falls one further behind. -/
theorem deq_m5 {j : Nat} {b : Byte} (h : q.Coherent v n e (some (.m5 j b))) :
    Ring.Coherent v n { q with head := nextIndex n j } e none := by
  obtain ⟨hwf, hlt, hh, ht, hsh, hst, hhh, hht⟩ := h.sound
  obtain ⟨hhead, htail⟩ := h.views
  obtain ⟨rfl, hheld, -⟩ := DeqPoint.fits_m5.1 (h.deq _ rfl)
  have hne : q.head ≠ q.tail := by
    intro heq
    simp [Ring.count, ← heq, ahead_self hh] at hheld
  have hcount : Ring.count n { q with head := nextIndex n q.head } + 1 = q.count n :=
    ahead_nextIndex_left hh ht hne
  have hlag : Ring.headLag v n { q with head := nextIndex n q.head } ≤ q.headLag v n + 1 := by
    cases v with
    | immediate => exact Nat.zero_le _
    | stale =>
      simp only [Ring.headLag] at hhead ⊢
      rw [ahead_nextIndex_right hhh hh (by omega)]
      omega
  refine ⟨⟨hwf, hlt, Nat.mod_lt _ (by omega), ht, hsh, hst, hhh, hht⟩, ⟨by omega, ?_⟩, ?_, by simp⟩
  · show q.tailLag v n ≤ _
    omega
  · intro p hp
    have hfits := h.enq p hp
    cases p with
    | m1 => rfl
    | m2 t => exact hfits
    | m3 t i =>
      obtain ⟨htl, hi, hle, hview⟩ := EnqPoint.fits_m3.1 hfits
      refine EnqPoint.fits_m3.2 ⟨htl, hi, ?_, hview⟩
      show _ + ahead n i (nextIndex n q.head) ≤ n - 1
      rw [ahead_nextIndex_right hi hh (by omega)]
      omega
    | m4 t i =>
      obtain ⟨htl, hi, hle⟩ := EnqPoint.fits_m4.1 hfits
      exact EnqPoint.fits_m4.2 ⟨htl, hi, by omega⟩
    | m5 i =>
      obtain ⟨hi, hle⟩ := EnqPoint.fits_m5.1 hfits
      exact EnqPoint.fits_m5.2 ⟨hi, by omega⟩

end Ring.Coherent

end Sys2Proof.Machine
end

section
/-! PROOF. Every micro-step of an enqueue and of a dequeue keeps the invariant (R72, R125), which is told
here ring buffer by ring buffer. -/

namespace Sys2Proof.Machine

open Sys2Proof

/-! ### What holds of the next state of an outcome -/

/-- If the outcome is a next state, `P` holds of it. -/
def Yields (P : State → Prop) : Out → Prop
  | .next t => P t
  | .fault _ => True
  | .refused _ => True

theorem Yields.of_next {P : State → Prop} {o : Out} {t : State} (h : Yields P o) (ho : o = .next t) :
    P t := by
  rwa [ho] at h

/-- What the second part yields after every state the first part answers, the sequence yields. -/
theorem Yields.andThen {P Q : State → Prop} {o : Out} {f : State → Out} (ho : Yields P o)
    (hf : ∀ t, o = .next t → P t → Yields Q (f t)) : Yields Q (andThen o f) := by
  cases o with
  | next t => exact hf t rfl ho
  | fault x => trivial
  | refused x => trivial

/-- What one round keeps, all rounds keep. -/
theorem Yields.forEach {α : Type} {P : State → Prop} {f : α → State → Out}
    (hf : ∀ a s, P s → Yields P (f a s)) (l : List α) {s : State} (hs : P s) :
    Yields P (forEach f l s) := by
  induction l generalizing s with
  | nil => exact hs
  | cons a rest ih => exact (hf a s hs).andThen fun t _ ht => ih ht

/-! ### The invariant by ring buffer -/

/-- The point the enqueue in progress on `r` has reached. -/
def State.enqPoint (r : RingId) (s : State) : Option EnqPoint := (s.enqOp r).map EnqOp.next

/-- The point the client's operation in progress has reached, if it is on `r`. -/
def State.deqPoint (r : RingId) (s : State) : Option DeqPoint :=
  (s.clientOp.filter (·.ring = r)).map DeqOp.next

/-- Ring buffer `r` and the operations in progress on it agree. -/
def State.Coherent (r : RingId) (s : State) : Prop :=
  (s.ring r).Coherent s.cfg.rbView (slots s.cfg r) (s.enqPoint r) (s.deqPoint r)

/-- Every channel has its record, its pin, low, and its key (R33, R34, R36). -/
def State.Channelled (s : State) : Prop :=
  s.ch.length = s.cfg.nCh ∧ s.stepPin = List.replicate s.cfg.nCh false ∧
    s.assignedKey.length = s.cfg.nCh

theorem State.deqFits_iff (s : State) : deqFits s = true ↔
    ∀ r, ∀ p ∈ s.deqPoint r, p.fits s.cfg.rbView (slots s.cfg r) (s.ring r) = true := by
  unfold deqFits State.deqPoint
  cases s.clientOp with
  | none => simp
  | some op =>
    constructor
    · intro h r p hp
      by_cases hr : op.ring = r
      · subst hr
        simp only [Option.filter_some, decide_true, if_true, Option.map_some, Option.mem_some_iff] at hp
        exact hp ▸ h
      · simp [hr] at hp
    · exact fun h => h op.ring op.next (by simp)

theorem State.ringSound_iff (r : RingId) (s : State) : s.RingSound r ↔
    (s.ring r).Sound (slots s.cfg r) ∧ (s.ring r).ViewSound s.cfg.rbView (slots s.cfg r) ∧
      ∀ p ∈ s.enqPoint r, p.fits s.cfg.rbView (slots s.cfg r) (s.ring r) = true := by
  refine and_congr_right fun _ => and_congr_right fun _ => ?_
  unfold enqFits State.enqPoint
  cases s.enqOp r with
  | none => simp
  | some op => simp

/-- The invariant, told ring buffer by ring buffer. -/
theorem State.inv_iff (s : State) : s.Inv ↔ (∀ r, s.Coherent r) ∧ s.Channelled ∧ s.BusSound := by
  constructor
  · rintro ⟨hbus, hser, hdeq, hch, hpin, hkey, hlines⟩
    refine ⟨fun r => ?_, ⟨hch, hpin, hkey⟩, hlines⟩
    have hring : s.RingSound r := by cases r <;> assumption
    obtain ⟨hsound, hviews, henq⟩ := (s.ringSound_iff r).1 hring
    exact ⟨hsound, hviews, henq, s.deqFits_iff.1 hdeq r⟩
  · rintro ⟨hring, ⟨hch, hpin, hkey⟩, hlines⟩
    have hsound : ∀ r, s.RingSound r := fun r =>
      (s.ringSound_iff r).2 ⟨(hring r).sound, (hring r).views, (hring r).enq⟩
    exact ⟨hsound .bus, hsound .ser, s.deqFits_iff.2 fun r => (hring r).deq, hch, hpin, hkey, hlines⟩

@[simp] theorem State.setClientOp_enqOp (s : State) (x : Option DeqOp) (r : RingId) :
    (s.setClientOp x).enqOp r = s.enqOp r := by cases r <;> rfl

namespace State.Inv

variable {s : State} {r : RingId}

theorem coherent (h : s.Inv) (r : RingId) : s.Coherent r := (s.inv_iff.1 h).1 r

/-- A producer's micro-step: the buffer and the enqueue on it change, and agree afterwards. -/
theorem setEnq (h : s.Inv) {q : Ring} {x : Option EnqOp}
    (hc : q.Coherent s.cfg.rbView (slots s.cfg r) (x.map EnqOp.next) (s.deqPoint r)) :
    ((s.setRing r q).setEnqOp r x).Inv := by
  obtain ⟨hring, hchan, hlines⟩ := s.inv_iff.1 h
  refine (State.inv_iff _).2 ⟨fun r' => ?_, by simpa [Channelled] using hchan, ?_⟩
  swap
  · cases r <;> exact hlines
  by_cases hr : r' = r
  · subst hr
    simpa [Coherent, enqPoint, deqPoint] using hc
  · have hother := hring r'
    unfold Coherent enqPoint deqPoint at hother ⊢
    simpa [ring_setRing_of_ne s q hr, enqOp_setEnqOp_of_ne (s.setRing r q) x hr] using hother

/-- The same, the buffer unchanged. -/
theorem setEnqOp (h : s.Inv) {x : Option EnqOp}
    (hc : (s.ring r).Coherent s.cfg.rbView (slots s.cfg r) (x.map EnqOp.next) (s.deqPoint r)) :
    (s.setEnqOp r x).Inv := by
  simpa using h.setEnq hc

/-- A consumer's micro-step: the buffer and the client's operation on it change, and agree afterwards. -/
theorem setDeq (h : s.Inv) {q : Ring} {x : Option DeqOp} (hx : ∀ op ∈ x, op.ring = r)
    (hc : q.Coherent s.cfg.rbView (slots s.cfg r) (s.enqPoint r) (x.map DeqOp.next)) :
    ((s.setRing r q).setClientOp x).Inv := by
  obtain ⟨hring, hchan, hlines⟩ := s.inv_iff.1 h
  refine (State.inv_iff _).2 ⟨fun r' => ?_, ?_, ?_⟩
  · by_cases hr : r' = r
    · subst hr
      have hpoint : ((s.setRing r' q).setClientOp x).deqPoint r' = x.map DeqOp.next := by
        cases x with
        | none => rfl
        | some op => simp [deqPoint, hx op rfl]
      unfold Coherent
      rw [hpoint]
      simpa [enqPoint] using hc
    · have hpoint : ((s.setRing r q).setClientOp x).deqPoint r' = none := by
        cases x with
        | none => rfl
        | some op => simp [deqPoint, hx op rfl, Ne.symm hr]
      unfold Coherent
      rw [hpoint]
      simpa [ring_setRing_of_ne s q hr, enqPoint] using (hring r').endDeq
  · cases r <;> exact hchan
  · cases r <;> exact hlines

/-- The same, the buffer unchanged. -/
theorem setClientOp (h : s.Inv) {x : Option DeqOp} (hx : ∀ op ∈ x, op.ring = r)
    (hc : (s.ring r).Coherent s.cfg.rbView (slots s.cfg r) (s.enqPoint r) (x.map DeqOp.next)) :
    (s.setClientOp x).Inv := by
  simpa using h.setDeq hx hc

/-! ### Updates the invariant does not speak of -/

theorem emit (h : s.Inv) (e : Event) : (s.emit e).Inv := h

theorem drop (h : s.Inv) (d : Drop) : (s.drop d).Inv := h

theorem respond (h : s.Inv) (a : Agent) (x : Response) : (s.respond a x).Inv := by
  cases a <;> exact h

theorem endHandler (h : s.Inv) (r : RingId) : (endHandler r s).Inv := by
  cases r <;> exact h

theorem passDelay (h : s.Inv) : s.passDelay.Inv := by
  unfold State.passDelay
  split <;> exact h

theorem waitBus (h : s.Inv) (us : Nat) : (s.waitBus us).Inv := by
  rw [State.waitBus_eq]
  exact h

end State.Inv

/-- A sequence that ends by answering the port of its agent keeps the invariant if its first part does. -/
theorem Yields.respond {o : Out} (ho : Yields State.Inv o) (a : Agent) (x : Response) :
    Yields State.Inv (Machine.andThen o fun t => .next (t.respond a x)) :=
  ho.andThen fun _ _ ht => ht.respond a x

/-! ### Micro-steps of an enqueue -/

/-- Under `STALE` the producer sees an index between what it could see before and the present `head`. -/
theorem readHead_stale {s : State} (h : s.cfg.rbView = .stale) (r : RingId) :
    readHead r s =
      (staleIndex (s.slotsOf r) (s.ring r).heldHead (s.ring r).head (Config.staleLag s.freeCtr),
        (s.setRing r { s.ring r with
          seenHead := staleIndex (s.slotsOf r) (s.ring r).heldHead (s.ring r).head
            (Config.staleLag s.freeCtr)
          heldHead := (s.ring r).head }).useFree) := by
  unfold readHead
  rw [h]

/-- Under `STALE` the consumer sees an index between what it could see before and the present `tail`. -/
theorem readTail_stale {s : State} (h : s.cfg.rbView = .stale) (r : RingId) :
    readTail r s =
      (staleIndex (s.slotsOf r) (s.ring r).heldTail (s.ring r).tail (Config.staleLag s.freeCtr),
        (s.setRing r { s.ring r with
          seenTail := staleIndex (s.slotsOf r) (s.ring r).heldTail (s.ring r).tail
            (Config.staleLag s.freeCtr)
          heldTail := (s.ring r).tail }).useFree) := by
  unfold readTail
  rw [h]

theorem inv_beginEnq {s : State} (h : s.Inv) (r : RingId) (b : Byte) (use : EnqUse) :
    (beginEnq r b use s).Inv :=
  h.setEnqOp ((h.coherent r).withEnq (by rintro p ⟨⟩; rfl))

/-- The end of an enqueue keeps the invariant where putting nothing in progress does. -/
theorem inv_finishEnq {r : RingId} {s : State} (h : (s.setEnqOp r none).Inv) (use : EnqUse) (ok : Bool) :
    (finishEnq r use ok s).Inv := by
  cases use with
  | plain => exact h.respond _ _
  | handler => exact (h.endHandler r).respond _ _

theorem inv_enqMicro_m2 {r : RingId} {s : State} (h : s.Inv) (b : Byte) (use : EnqUse) :
    ((readHead r s).2.setEnqOp r (some ⟨b, .m3 (s.ring r).tail (readHead r s).1, use⟩)).Inv := by
  have hc := h.coherent r
  unfold State.Coherent at hc
  cases hv : s.cfg.rbView with
  | immediate =>
    rw [hv] at hc
    rw [readHead_immediate hv]
    refine h.setEnqOp ?_
    rw [hv]
    exact hc.enq_m2_immediate
  | stale =>
    rw [hv] at hc
    obtain ⟨-, -, hh, -, -, -, hhh, -⟩ := hc.sound
    rw [readHead_stale hv, ← State.setEnqOp_useFree]
    refine State.Inv.setEnq (s := s) h ?_
    rw [hv]
    exact hc.enq_m2_stale (staleIndex_lt _ _ _ _ (Nat.zero_lt_of_lt hh)) (staleIndex_between _ hhh hh)

theorem inv_enqMicro {s : State} (h : s.Inv) (r : RingId) : Yields State.Inv (enqMicro r s) := by
  unfold enqMicro
  split
  · trivial
  · rename_i op hop
    obtain ⟨b, p, use⟩ := op
    have hc : (s.ring r).Coherent s.cfg.rbView (slots s.cfg r) (some p) (s.deqPoint r) := by
      simpa [State.Coherent, State.enqPoint, hop] using h.coherent r
    cases p with
    | m1 => exact h.setEnqOp hc.enq_m1
    | m2 t =>
      obtain rfl := EnqPoint.fits_m2.1 (hc.enq _ rfl)
      exact inv_enqMicro_m2 h b use
    | m3 t i =>
      dsimp only
      split
      · refine inv_finishEnq ?_ use false
        rw [← State.setEnqOp_drop]
        exact (h.setEnqOp hc.endEnq).drop _
      · exact h.setEnqOp (hc.enq_m3 ‹_›)
    | m4 t i =>
      dsimp only
      split
      · rename_i u hu
        obtain ⟨-, rfl⟩ := writeCell_cases hu
        exact h.setEnq (hc.enq_m4 b)
      · trivial
    | m5 i => exact inv_finishEnq (h.setEnq hc.enq_m5) use true

theorem inv_enqMicros (r : RingId) (k : Nat) {s : State} (h : s.Inv) :
    Yields State.Inv (enqMicros r k s) := by
  induction k generalizing s with
  | zero => exact h
  | succ k ih =>
    unfold enqMicros
    split
    · exact (inv_enqMicro h r).andThen fun t _ ht => ih ht
    · exact h

theorem inv_completeEnq {s : State} (h : s.Inv) (r : RingId) : Yields State.Inv (completeEnq r s) :=
  inv_enqMicros r 5 h

/-- The micro-steps an enqueue has still to take, at most (R121). -/
def EnqPoint.remaining : EnqPoint → Nat
  | .m1 => 5
  | .m2 _ => 4
  | .m3 _ _ => 3
  | .m4 _ _ => 2
  | .m5 _ => 1

theorem enqMicro_remaining {r : RingId} {k : Nat} {s : State}
    (h : ∀ op ∈ s.enqOp r, op.next.remaining ≤ k + 1) :
    Yields (fun t => ∀ op ∈ t.enqOp r, op.next.remaining ≤ k) (enqMicro r s) := by
  unfold enqMicro
  split
  · trivial
  · rename_i op hop
    have hleft := h op hop
    obtain ⟨b, p, use⟩ := op
    have hgoes : ∀ (u : State) (p' : EnqPoint), p'.remaining ≤ k →
        ∀ op ∈ (u.setEnqOp r (some ⟨b, p', use⟩)).enqOp r, op.next.remaining ≤ k := by
      intro u p' hp' op hop
      rw [State.enqOp_setEnqOp] at hop
      exact Option.some.inj hop ▸ hp'
    have hends : ∀ (u : State) (ok : Bool),
        ∀ op ∈ (finishEnq r use ok u).enqOp r, op.next.remaining ≤ k := by simp
    cases p with
    | m1 => exact hgoes s _ (Nat.le_of_succ_le_succ hleft)
    | m2 t => exact hgoes _ _ (Nat.le_of_succ_le_succ hleft)
    | m3 t i =>
      dsimp only
      split
      · exact hends _ _
      · exact hgoes s _ (Nat.le_of_succ_le_succ hleft)
    | m4 t i =>
      dsimp only
      split
      · exact hgoes _ _ (Nat.le_of_succ_le_succ hleft)
      · trivial
    | m5 i => exact hends _ _

/-- Five micro-steps bring any enqueue in progress to its end (R121). -/
theorem completeEnq_enqOp (r : RingId) (s : State) :
    Yields (fun t => t.enqOp r = none) (completeEnq r s) := by
  have hmicros : ∀ (k : Nat) (s : State), (∀ op ∈ s.enqOp r, op.next.remaining ≤ k) →
      Yields (fun t => t.enqOp r = none) (enqMicros r k s) := by
    intro k
    induction k with
    | zero =>
      intro s h
      refine Option.eq_none_iff_forall_not_mem.2 fun op hop => ?_
      have := h op hop
      cases hp : op.next <;> simp [hp, EnqPoint.remaining] at this
    | succ k ih =>
      intro s h
      unfold enqMicros
      split
      · exact (enqMicro_remaining h).andThen fun t _ ht => ih t ht
      · rename_i hnone
        exact Option.not_isSome_iff_eq_none.1 hnone
  refine hmicros 5 s fun op _ => ?_
  cases op.next <;> simp [EnqPoint.remaining]

/-! ### Micro-steps of a dequeue -/

theorem inv_beginDeq {s : State} (h : s.Inv) (r : RingId) (use : DeqUse) : (beginDeq r use s).Inv :=
  h.setClientOp (r := r) (by rintro op ⟨⟩; rfl) ((h.coherent r).withDeq (by rintro p ⟨⟩; rfl))

theorem inv_frameByte {s : State} (h : s.Inv) (v : Byte) : (frameByte v s).2.Inv := by
  rcases frameByte_cases v s with ⟨-, -, h'⟩ | ⟨-, -, h'⟩ | ⟨-, -, h'⟩ | ⟨-, -, h'⟩ | ⟨-, h'⟩ | ⟨-, h'⟩ <;>
    rw [h'] <;> exact h

theorem inv_stepFramer {s : State} (h : s.Inv) (v : Byte) : Yields State.Inv (stepFramer v s) :=
  (inv_frameByte h v).respond _ _

theorem inv_finishDeq {s : State} (h : s.Inv) (use : DeqUse) (x : Option Byte) :
    Yields State.Inv (finishDeq use x s) := by
  unfold finishDeq
  split
  · exact h.respond _ _
  · trivial
  · exact inv_stepFramer h _
  · exact h.respond _ _
  · exact h.respond _ _

/-- The consumer reads `tail`, and its operation goes on to the test of m3 or ends. -/
theorem inv_readTail {r : RingId} {s : State} (h : s.Inv) {x : Option DeqOp}
    (hx : x = none ∨ ∃ use, x = some ⟨r, .m3 (s.ring r).head (readTail r s).1, use⟩) :
    ((readTail r s).2.setClientOp x).Inv := by
  have hc := h.coherent r
  unfold State.Coherent at hc
  have hring : ∀ op ∈ x, op.ring = r := by
    rcases hx with rfl | ⟨use, rfl⟩
    · simp
    · rintro op ⟨⟩
      rfl
  cases hv : s.cfg.rbView with
  | immediate =>
    rw [hv] at hc
    rw [readTail_immediate hv] at hx ⊢
    refine h.setClientOp hring ?_
    rw [hv]
    rcases hx with rfl | ⟨use, rfl⟩
    · exact hc.endDeq
    · exact hc.deq_m2_immediate
  | stale =>
    rw [hv] at hc
    obtain ⟨-, -, -, ht, -, -, -, hht⟩ := hc.sound
    have hnext := hc.deq_m2_stale (staleIndex_lt _ _ _ _ (Nat.zero_lt_of_lt ht))
      (staleIndex_between (Config.staleLag s.freeCtr) hht ht)
    rw [readTail_stale hv] at hx ⊢
    rw [← State.setClientOp_useFree]
    refine State.Inv.setDeq (s := s) h hring ?_
    rw [hv]
    rcases hx with rfl | ⟨use, rfl⟩
    · exact hnext.endDeq
    · exact hnext

theorem inv_deqMicro {op : DeqOp} {s : State} (h : s.Inv) (hop : s.clientOp = some op) :
    Yields State.Inv (deqMicro op s) := by
  obtain ⟨r, p, use⟩ := op
  have hc : (s.ring r).Coherent s.cfg.rbView (slots s.cfg r) (s.enqPoint r) (some p) := by
    have hpoint : s.deqPoint r = some p := by simp [State.deqPoint, hop, Option.filter_some]
    exact hpoint ▸ h.coherent r
  have hone : ∀ p' : DeqPoint, ∀ op ∈ some (DeqOp.mk r p' use), op.ring = r := by
    rintro p' op ⟨⟩
    rfl
  have hnone : ∀ op ∈ (none : Option DeqOp), op.ring = r := by simp
  cases p with
  | m1 =>
    rw [deqMicro_m1]
    exact h.setClientOp (hone _) hc.deq_m1
  | m2 j =>
    obtain rfl := DeqPoint.fits_m2.1 (hc.deq _ rfl)
    have htest : ∀ y, ((readTail r (s.setClientOp none)).2.respond .client y).Inv := by
      intro y
      rw [readTail_setClientOp]
      exact (inv_readTail h (.inl rfl)).respond _ _
    cases use with
    | empty => exact htest _
    | hasdata => exact htest _
    | deq => exact inv_readTail h (.inr ⟨_, rfl⟩)
    | read => exact inv_readTail h (.inr ⟨_, rfl⟩)
    | framer => exact inv_readTail h (.inr ⟨_, rfl⟩)
  | m3 j i =>
    rw [deqMicro_m3]
    split
    · exact inv_finishDeq (h.setClientOp hnone hc.endDeq) _ _
    · exact h.setClientOp (hone _) (hc.deq_m3 ‹_›)
  | m4 j =>
    rw [deqMicro_m4]
    cases hr : readCell r j s with
    | error f => trivial
    | ok v =>
      obtain rfl : (s.ring r).buf.read j = v := by
        unfold readCell at hr
        split at hr
        · exact Except.ok.inj hr
        · simp at hr
      exact h.setClientOp (hone _) hc.deq_m4
  | m5 j v =>
    rw [deqMicro_m5]
    refine inv_finishDeq (s := publishHead r j v (s.setClientOp none)) ?_ use (some v)
    have hpub : publishHead r j v (s.setClientOp none) =
        State.emit ((s.setRing r { s.ring r with head := nextIndex (s.slotsOf r) j }).setClientOp none)
          (.deq r v) := by
      simp [publishHead]
    rw [hpub]
    exact h.setDeq hnone hc.deq_m5

theorem inv_clientMicros (k : Nat) {s : State} (h : s.Inv) : Yields State.Inv (clientMicros k s) := by
  induction k generalizing s with
  | zero => exact h
  | succ k ih =>
    unfold clientMicros
    split
    · exact (inv_deqMicro h ‹_›).andThen fun t _ ht => ih ht
    · exact h

end Sys2Proof.Machine
end

section
/-! PROOF. Every operation, and so every step, keeps the invariant (R20, R125): a whole ring buffer
operation is its micro-steps (O23 to O25), and what is no ring buffer operation is taken one by one. -/

namespace Sys2Proof.Machine

open Sys2Proof

/-! ### Whole ring buffer operations -/

/-- A consumer operation of the client is its micro-steps. -/
theorem inv_clientRing {i : Instr} {r : RingId} {s : State} (h : s.Inv) (hnone : s.clientOp = none)
    (hi : i = .rbDeq r ∨ i = .rbEmpty r ∨ i = .busHasdata ∨ i = .busRead ∨ i = .pfStep) :
    Yields State.Inv (exec i s) := by
  rw [← clientMicroStepsMakeTheOperation i r s hnone hi]
  have hbegun : Yields State.Inv (beginOp i s) := by
    rcases hi with rfl | rfl | rfl | rfl | rfl <;> exact inv_beginDeq h _ _
  exact hbegun.andThen fun _ _ ht => inv_clientMicros 5 ht

theorem inv_execRbEnq {r : RingId} {s : State} (h : s.Inv) (hnone : s.enqOp r = none) (b : Byte) :
    Yields State.Inv (execRbEnq r b s) := by
  rw [← completeEnq_plain hnone]
  exact inv_completeEnq (inv_beginEnq h r b .plain) r

theorem inv_beginFinish {s : State} (h : s.Inv) : (beginFinish s).Inv := by
  unfold beginFinish
  dsimp only
  split
  · exact ((h.drop _).endHandler .ser).respond _ _
  · exact inv_beginEnq h _ _ _

theorem inv_finishFrame {s : State} (h : s.Inv) (hnone : s.sbdOp = none) :
    Yields State.Inv (finishFrame s) := by
  have hmicros := inv_completeEnq (inv_beginFinish h) .ser
  rw [completeEnq_beginFinish hnone] at hmicros
  cases hf : finishFrame s with
  | next t =>
    rw [hf] at hmicros
    exact hmicros
  | fault x => trivial
  | refused x => trivial

theorem inv_startFrame {s : State} (h : s.Inv) : (startFrame s).Inv := by
  rcases startFrame_cases s with ⟨-, h'⟩ | ⟨-, h'⟩ <;> rw [h'] <;> exact h

theorem inv_loadFrame {s : State} (h : s.Inv) (w : Slots) : (loadFrame w s).Inv := inv_startFrame h

theorem inv_wholeFrame {s : State} (h : s.Inv) (hnone : s.sbdOp = none) (w : Slots) :
    Yields State.Inv (wholeFrame w s) := by
  unfold wholeFrame
  split
  · trivial
  · exact inv_finishFrame (inv_loadFrame h w) ((loadFrame_sbdOp w s).trans hnone)

theorem inv_execSbdFinish {s : State} (h : s.Inv) (hnone : s.sbdOp = none) :
    Yields State.Inv (execSbdFinish s) := by
  unfold execSbdFinish
  split
  · exact (inv_finishFrame h hnone).respond _ _
  · trivial

theorem inv_execBusrService {s : State} (h : s.Inv) (hnone : s.busrOp = none) :
    Yields State.Inv (execBusrService s) := by
  have hmicros := (engineMicroStepsMakeTheOperation 0#10 s).1 hnone
  change _ = execBusrService s at hmicros
  rw [← hmicros]
  unfold beginOp
  dsimp only
  split
  · exact inv_completeEnq (inv_beginEnq (s := (sampleBus s).2) h _ _ _) .bus
  · trivial

/-! ### The bus -/

/-- The lines, the phase and the writer change, and agree afterwards (R29, R141). -/
theorem State.Inv.setLines {s : State} (h : s.Inv) {b : Byte} {l : Bool} {p : BuswPhase} {w : BusDriver}
    (hphase : p ≠ .idle → w = .this) (hclk : w = .this → (l = true ↔ p = .asserted))
    (hnobody : w = .nobody → l = false) :
    State.Inv { s with d := b, clk := l, buswPhase := p, busDriver := w } := by
  obtain ⟨hbus, hser, hdeq, hch, hpin, hkey, -⟩ := h
  exact ⟨hbus, hser, hdeq, hch, hpin, hkey, hphase, hclk, hnobody⟩

theorem State.Inv.busSound {s : State} (h : s.Inv) : s.BusSound := (s.inv_iff.1 h).2.2

/-- While this unit writes it is the driver. -/
theorem State.Inv.busDriver {s : State} (h : s.Inv) (hp : s.buswPhase ≠ .idle) : s.busDriver = .this :=
  h.busSound.1 hp

theorem inv_clockEdge {s : State} (h : s.Inv) : (clockEdge s).Inv := by
  unfold clockEdge
  split <;> exact h

theorem inv_edgeIfListening {s : State} (h : s.Inv) : (edgeIfListening s).Inv := by
  unfold edgeIfListening
  split
  · exact inv_clockEdge h
  · exact h

theorem inv_drive {s : State} (h : s.Inv) (b : Byte) : Yields State.Inv (drive b s) := by
  cases hd : drive b s with
  | next t =>
    obtain ⟨-, -, hclk, rfl⟩ := drive_next hd
    exact (h.waitBus s.cfg.tGap).setLines (by simp) (by simp [hclk]) (by simp)
  | fault x => trivial
  | refused x => trivial

theorem inv_assertClock {s : State} (h : s.Inv) : Yields State.Inv (assertClock s) := by
  cases ha : assertClock s with
  | next t =>
    obtain ⟨hp, rfl⟩ := assertClock_next ha
    have hthis : s.busDriver = .this := h.busDriver (by simp [hp])
    have hraised := (h.waitBus s.cfg.tSetup).setLines (b := (s.waitBus s.cfg.tSetup).d) (l := true)
      (p := .asserted) (w := (s.waitBus s.cfg.tSetup).busDriver) (by simp [hthis]) (by simp) (by simp [hthis])
    exact inv_edgeIfListening (hraised.emit _)
  | fault x => trivial
  | refused x => trivial

theorem inv_deassertClock {s : State} (h : s.Inv) : Yields State.Inv (deassertClock s) := by
  cases hd : deassertClock s with
  | next t =>
    obtain ⟨-, rfl⟩ := deassertClock_next hd
    exact (h.waitBus s.cfg.tHold).setLines (by simp) (by simp) (by simp)
  | fault x => trivial
  | refused x => trivial

/-- A unit that does not drive the bus has no write in progress. -/
theorem State.Inv.buswPhase_idle {s : State} (h : s.Inv) (hd : s.busDriver ≠ .this) :
    s.buswPhase = .idle := by
  by_contra hp
  exact hd (h.busDriver hp)

theorem inv_remoteDrive {s : State} (h : s.Inv) (b : Byte) : Yields State.Inv (remoteDrive b s) := by
  cases hr : remoteDrive b s with
  | next t =>
    obtain ⟨hd, -, rfl⟩ := remoteDrive_next hr
    exact h.setLines (by simp [h.buswPhase_idle hd]) (by simp) (by simp)
  | fault x => trivial
  | refused x => trivial

theorem inv_remoteClock {s : State} (h : s.Inv) (l : Bool) : Yields State.Inv (remoteClock l s) := by
  cases hr : remoteClock l s with
  | next t =>
    obtain ⟨hd, ht⟩ := remoteClock_next hr
    have hlines : State.Inv { s with clk := l, busDriver := .remote } :=
      h.setLines (by simp [h.buswPhase_idle hd]) (by simp) (by simp)
    rcases ht with rfl | ⟨-, -, rfl⟩
    · exact hlines
    · exact inv_edgeIfListening hlines
  | fault x => trivial
  | refused x => trivial

theorem inv_serviceInHold {s : State} (h : s.Inv) : Yields State.Inv (serviceInHold s) := by
  unfold serviceInHold
  split
  · exact (inv_completeEnq h .bus).andThen fun t ht hinv =>
      inv_execBusrService hinv ((completeEnq_enqOp .bus s).of_next ht)
  · exact h

theorem inv_writeBus (b : Byte) {s : State} (h : s.Inv) : Yields State.Inv (writeBus b s) :=
  (inv_drive h b).andThen fun _ _ h1 => (inv_assertClock h1).andThen fun _ _ h2 =>
    (inv_serviceInHold h2).andThen fun _ _ h3 => inv_deassertClock h3

theorem inv_execByte {s : State} (h : s.Inv) (b : Byte) : Yields State.Inv (execByte b s) := by
  unfold execByte
  split
  · trivial
  · exact (inv_remoteDrive h b).andThen fun _ _ h1 => (inv_remoteClock h1 true).andThen fun _ _ h2 =>
      (inv_serviceInHold h2).andThen fun _ _ h3 => inv_remoteClock h3 false

/-! ### Assembler, allocator, scheduler -/

theorem inv_assembleStep (b : Byte) {s : State} (h : s.Inv) : Yields State.Inv (assembleStep b s) := by
  have hassemble : (assemble b s).2.Inv := by
    rcases assemble_cases b s with ⟨-, -, h'⟩ | ⟨-, -, -, h'⟩ | ⟨-, h'⟩ | ⟨-, h'⟩ <;> rw [h'] <;> exact h
  exact hassemble.respond _ _

theorem inv_assignKey {s : State} (h : s.Inv) (i : Nat) (k : Byte) : (assignKey i k s).Inv := by
  obtain ⟨hbus, hser, hdeq, hch, hpin, hkey, hlines⟩ := h
  exact ⟨hbus, hser, hdeq, hch, hpin, (List.length_set ..).trans hkey, hlines⟩

theorem inv_assignMapped (k : Byte) (m : Nat) {s : State} (h : s.Inv) :
    Yields State.Inv (assignMapped k m s) := by
  unfold assignMapped
  split
  · exact inv_assignKey h _ _
  · trivial

theorem inv_answerPairs {s : State} (h : s.Inv) (l : List (Byte × Byte)) :
    Yields State.Inv (answerPairs l s) := h.respond _ _

theorem inv_liveOn {s : State} (h : s.Inv) (e : NoteEvent) : Yields State.Inv (liveOn e s) := by
  unfold liveOn
  split
  · exact inv_answerPairs (h.drop _) _
  · split
    · trivial
    · exact inv_answerPairs (inv_assignKey h _ _) _

theorem inv_liveOff {s : State} (h : s.Inv) (e : NoteEvent) : Yields State.Inv (liveOff e s) := by
  unfold liveOff
  split
  · exact inv_answerPairs (h.drop _) _
  · exact inv_answerPairs (inv_assignKey h _ _) _

theorem inv_seqOn {s : State} (h : s.Inv) (e : NoteEvent) : Yields State.Inv (seqOn e s) := by
  unfold seqOn
  split
  · exact inv_answerPairs h _
  · split
    · trivial
    · exact (Yields.forEach (fun m _ => inv_assignMapped _ m) _ h).andThen fun _ _ ht =>
        inv_answerPairs ht _

theorem inv_seqOff {s : State} (h : s.Inv) (e : NoteEvent) : Yields State.Inv (seqOff e s) :=
  (Yields.forEach (fun m _ => inv_assignMapped _ m) _ h).andThen fun _ _ ht => inv_answerPairs ht _

theorem inv_execVaEvent {s : State} (h : s.Inv) (e : NoteEvent) : Yields State.Inv (execVaEvent e s) := by
  unfold execVaEvent
  cases s.cfg.mode with
  | live =>
    dsimp only
    split_ifs
    · exact inv_liveOn h e
    · exact inv_liveOff h e
    · exact inv_answerPairs h _
  | sequenced =>
    dsimp only
    split_ifs
    · exact inv_seqOn h e
    · exact inv_seqOff h e
    · exact inv_answerPairs h _

theorem inv_setChannel {s : State} (h : s.Inv) (c : Nat) (k : Channel) : (setChannel c k s).Inv := by
  obtain ⟨hbus, hser, hdeq, hch, hpin, hkey, hlines⟩ := h
  exact ⟨hbus, hser, hdeq, (List.length_set ..).trans hch, hpin, hkey, hlines⟩

theorem inv_pulse {s : State} (h : s.Inv) (c t : Nat) : (pulse c t s).Inv := by
  obtain ⟨hbus, hser, hdeq, hch, hpin, hkey, hlines⟩ := h
  exact ⟨hbus, hser, hdeq, hch, pulse_stepPin hpin, hkey, hlines⟩

theorem inv_intake {s : State} (h : s.Inv) (f1 f2 : Byte) : Yields State.Inv (intake f1 f2 s) := by
  cases hi : intake f1 f2 s with
  | next t =>
    rcases intake_next hi with rfl | ⟨-, k, -, rfl⟩ | ⟨-, d, -, rfl⟩
    · exact h.drop _
    · exact inv_setChannel h _ _
    · exact inv_setChannel h _ _
  | fault x => trivial
  | refused x => trivial

theorem inv_check {s : State} (h : s.Inv) (c : Nat) : Yields State.Inv (check c s) := by
  cases hc : check c s with
  | next t =>
    obtain ⟨k, -, ⟨-, -, rfl⟩ | ⟨-, rfl⟩⟩ := check_next hc
    · exact inv_setChannel (inv_pulse h _ _) _ _
    · exact h
  | fault x => trivial
  | refused x => trivial

theorem inv_checkAll (cs : List Nat) (again : Bool) {s : State} (h : s.Inv) :
    Yields State.Inv (checkAll cs again s) := by
  induction cs generalizing again s with
  | nil => exact h
  | cons c cs ih =>
    have hwait : State.Inv (if again then s.passDelay else s) := by
      split
      · exact h.passDelay
      · exact h
    unfold checkAll
    split
    · exact (inv_check hwait c).andThen fun _ _ ht => ih true ht
    · exact (inv_check h c).andThen fun _ _ ht => ih again ht

theorem inv_execSsCheck {s : State} (h : s.Inv) (c : Byte) : Yields State.Inv (execSsCheck c s) := by
  unfold execSsCheck
  split
  · exact (inv_check h _).respond _ _
  · trivial

theorem inv_frameAndIntake (v : Byte) {s : State} (h : s.Inv) : Yields State.Inv (frameAndIntake v s) := by
  have hframe := inv_frameByte h v
  unfold frameAndIntake
  split <;> rename_i heq <;> rw [heq] at hframe
  · exact inv_intake hframe _ _
  · exact hframe

/-! ### Every operation and every request -/

/-- An agent that may begin its operation has no ring buffer operation of its own in progress (R69). -/
theorem clientOp_none_of_discipline {i : Instr} {s : State} (h : discipline .client i s = none) :
    s.clientOp = none := by
  obtain ⟨-, -, -, hbusy⟩ := discipline_none h
  simp only [isBusy, Bool.or_eq_false_iff, Option.isSome_eq_false_iff, Option.isNone_iff_eq_none] at hbusy
  exact hbusy.1

theorem busrOp_none_of_discipline {i : Instr} {s : State} (h : discipline .busr i s = none)
    (hi : isEdge i = false) : s.busrOp = none := by
  obtain ⟨-, -, -, hbusy⟩ := discipline_none h
  simpa [isBusy, hi] using hbusy

theorem sbdOp_none_of_discipline {i : Instr} {s : State} (h : discipline .sbd i s = none)
    (hi : isEdge i = false) : s.sbdOp = none := by
  obtain ⟨-, -, -, hbusy⟩ := discipline_none h
  simp only [isBusy, hi, Bool.not_false, Bool.and_true, Bool.or_eq_false_iff,
    Option.isSome_eq_false_iff, Option.isNone_iff_eq_none] at hbusy
  exact hbusy.1

theorem sbdOp_none_of_discipline_env {i : Instr} {s : State} (h : discipline .env i s = none)
    (hi : isWholeFrame i = true) : s.sbdOp = none := by
  obtain ⟨-, -, -, hbusy⟩ := discipline_none h
  simpa [isBusy, hi] using hbusy

/-- Every operation that keeps the discipline keeps the invariant. -/
theorem inv_exec {a : Agent} {i : Instr} {s : State} (h : s.Inv) (hd : discipline a i s = none) :
    Yields State.Inv (exec i s) := by
  obtain ⟨rfl, -⟩ := discipline_none hd
  cases i with
  | rbEnq r b =>
    cases r with
    | bus => exact inv_execRbEnq (r := .bus) h (busrOp_none_of_discipline hd rfl) b
    | ser => exact inv_execRbEnq (r := .ser) h (sbdOp_none_of_discipline hd rfl) b
  | rbDeq r => exact inv_clientRing (r := r) h (clientOp_none_of_discipline hd) (by simp)
  | rbEmpty r => exact inv_clientRing (r := r) h (clientOp_none_of_discipline hd) (by simp)
  | busWrite b => exact (inv_writeBus b h).respond _ _
  | buswDrive b => exact (inv_drive h b).respond _ _
  | buswAssert => exact (inv_assertClock h).respond _ _
  | buswDeassert => exact (inv_deassertClock h).respond _ _
  | busSendpkt f1 f2 => exact (Yields.forEach (fun b _ => inv_writeBus b) _ h).respond _ _
  | busSendready => exact (inv_writeBus _ h).respond _ _
  | busrEdge => exact (inv_clockEdge h).respond _ _
  | busrService => exact inv_execBusrService h (busrOp_none_of_discipline hd rfl)
  | busHasdata => exact inv_clientRing (r := .bus) h (clientOp_none_of_discipline hd) (by simp)
  | busRead => exact inv_clientRing (r := .bus) h (clientOp_none_of_discipline hd) (by simp)
  | pfStep => exact inv_clientRing (r := .bus) h (clientOp_none_of_discipline hd) (by simp)
  | sbdStart => exact (inv_startFrame h).respond _ _
  | sbdSample k =>
    change Yields State.Inv (execSbdSample k s)
    unfold execSbdSample
    split
    · exact h
    · trivial
  | sbdFinish => exact inv_execSbdFinish h (sbdOp_none_of_discipline hd rfl)
  | sbdFrame w => exact (inv_wholeFrame h (sbdOp_none_of_discipline hd rfl) w).respond _ _
  | eaByte b => exact inv_assembleStep b h
  | vaEvent e => exact inv_execVaEvent h e
  | ssPacket f1 f2 => exact (inv_intake h f1 f2).respond _ _
  | ssCheck c => exact inv_execSsCheck h c
  | ssLoop => exact (inv_checkAll _ false h).respond _ _
  | byte b => exact inv_execByte h b
  | serData w => exact inv_wholeFrame h (sbdOp_none_of_discipline_env hd rfl) w
  | serKeepalive start stop => exact inv_wholeFrame h (sbdOp_none_of_discipline_env hd rfl) _
  | pktOn n c => exact (Yields.forEach (fun v _ => inv_frameAndIntake v) _ h).respond _ _
  | pktOff c => exact (Yields.forEach (fun v _ => inv_frameAndIntake v) _ h).respond _ _
  | rdy => exact inv_stepFramer h _
  | busbytePreReady b => exact inv_stepFramer h b
  | busbyteStart => exact inv_stepFramer h _
  | busbyteUnsync b => exact inv_stepFramer h b
  | busbyteField1 b => exact inv_stepFramer h b
  | busbyteField2 b => exact inv_stepFramer h b
  | evtNoteon c k v => exact Yields.forEach (fun b _ => inv_assembleStep b) _ h
  | evtNoteoff c k v => exact Yields.forEach (fun b _ => inv_assembleStep b) _ h
  | evtOther a c k v => exact Yields.forEach (fun b _ => inv_assembleStep b) _ h
  | evtSeqdiscard a c => exact inv_assembleStep _ h

/-- Every operation begun at micro-step grain keeps the invariant. -/
theorem inv_beginOp {a : Agent} {i : Instr} {s : State} (h : s.Inv) (hd : discipline a i s = none) :
    Yields State.Inv (beginOp i s) := by
  unfold beginOp
  split
  case h_1 r b => exact inv_beginEnq h r b .plain
  case h_2 r => exact inv_beginDeq h r .deq
  case h_3 r => exact inv_beginDeq h r .empty
  case h_4 => exact inv_beginDeq h .bus .hasdata
  case h_5 => exact inv_beginDeq h .bus .read
  case h_6 => exact inv_beginDeq h .bus .framer
  case h_7 =>
    split
    · exact inv_beginEnq (s := (sampleBus s).2) h _ _ _
    · trivial
  case h_8 =>
    split
    · exact inv_beginFinish h
    · trivial
  case h_9 w =>
    split
    · trivial
    · exact inv_beginFinish (inv_loadFrame h w)
  case h_10 b => exact inv_drive h b
  case h_11 => exact inv_exec h hd

theorem inv_clientMicro {s : State} (h : s.Inv) : Yields State.Inv (clientMicro s) := by
  unfold clientMicro
  split
  · exact inv_deqMicro h ‹_›
  · split
    · exact inv_assertClock h
    · exact (inv_deassertClock h).respond _ _
    · trivial

theorem inv_agentMicro {s : State} (h : s.Inv) (a : Agent) : Yields State.Inv (agentMicro a s) := by
  cases a with
  | client => exact inv_clientMicro h
  | busr => exact inv_enqMicro h .bus
  | sbd => exact inv_enqMicro h .ser
  | env => trivial

theorem inv_setTime {s : State} (h : s.Inv) (n : Nat) : Yields State.Inv (setTime n s) := by
  unfold setTime
  split
  · trivial
  · exact h

theorem inv_driveRx {s : State} (h : s.Inv) (l : Bool) : Yields State.Inv (driveRx l s) := by
  unfold driveRx
  dsimp only
  split
  · exact inv_startFrame (s := { s with rx := l, rxWave := (s.time, l) :: s.rxWave }) h
  · exact h

theorem inv_sampleDuringDrive {s : State} (h : s.Inv) (a : Agent) (b : Byte) :
    Yields State.Inv (sampleDuringDrive a b s) := by
  cases hs : sampleDuringDrive a b s with
  | next t =>
    obtain ⟨-, -, u, hu, rfl⟩ := sampleDuringDrive_next hs
    have hdriven : u.Inv := by
      rcases driveBy_next hu with ⟨-, -, hclient⟩ | ⟨-, henv⟩
      · exact ((inv_drive h b).respond _ _).of_next hclient
      · exact (inv_remoteDrive h b).of_next henv
    exact inv_beginEnq (s := State.useFree { u with irqPending := false }) hdriven _ _ _
  | fault x => trivial
  | refused x => trivial

theorem Yields.fetchAnd {P : State → Prop} {run : Instr → State → Out} {a : Agent} {s : State}
    (hrun : ∀ i, discipline a i s = none → Yields P (run i s)) (u : WireUnit) :
    Yields P (fetchAnd run a u s) := by
  unfold Machine.fetchAnd
  split
  · trivial
  · split
    · trivial
    · exact hrun _ ‹_›

theorem inv_perform {s : State} (h : s.Inv) (q : Request) : Yields State.Inv (perform q s) := by
  cases q with
  | op a u => exact Yields.fetchAnd (fun i hd => inv_exec h hd) u
  | start a u => exact Yields.fetchAnd (fun i hd => inv_beginOp h hd) u
  | micro a => exact inv_agentMicro h a
  | time n => exact inv_setTime h n
  | rx l => exact inv_driveRx h l
  | driveD b => exact inv_remoteDrive h b
  | driveClk l => exact inv_remoteClock h l
  | driveDuringSample a b => exact inv_sampleDuringDrive h a b

theorem inv_step {s : State} (h : s.Inv) : Yields State.Inv (step s) := by
  unfold step advance
  split
  · exact h
  · rename_i q rest _
    exact inv_perform (s := { s with pending := rest }) h q

end Sys2Proof.Machine

open Sys2Proof Sys2Proof.Machine

/-- Settles O7: every request keeps the invariant, its micro-steps one by one and its whole operations
as their micro-steps. -/
theorem stepKeepsInvariant : Obligations.StepKeepsInvariant := by
  unfold Obligations.StepKeepsInvariant
  intro s t h ht
  exact (inv_step h).of_next ht
end

section
/-! PROOF. What holds of every step (R38, R41), the refusals of the discipline (R22, R69, R278), and the
two edges at the pins (R156, R186). -/

namespace Sys2Proof.Machine

open Sys2Proof

/-! ### The discipline -/

/-- A request that breaks the discipline is refused for the reason the discipline gives. -/
theorem step_refused_of_discipline {s : State} {q : Request} {a : Agent} {u : WireUnit}
    {rest : List Request} {i : Instr} {x : Refusal} (hq : q = .op a u ∨ q = .start a u)
    (hpending : s.pending = q :: rest) (hdecode : decode s.context u = .ok i)
    (hd : discipline a i s = some x) : step s = .refused x := by
  have hdecode' : decode (State.context { s with pending := rest }) u = .ok i := hdecode
  have hd' : discipline a i { s with pending := rest } = some x := by cases a <;> exact hd
  rcases hq with rfl | rfl <;> simp only [step, advance, hpending, perform, fetchAnd, hdecode', hd']

section

variable {a : Agent} {i : Instr} {s : State}

/-- No agent performs an operation of another (R278). -/
theorem discipline_of_foreign (h : a ≠ performer i) : discipline a i s = some .spscViolation :=
  if_pos h.symm

/-- No agent performs RB.ENQ on `RB_BUS` by itself (R158). -/
theorem discipline_of_directBusEnqueue (h : isDirectBusEnqueue i = true) :
    discipline a i s = some .spscViolation := by
  unfold discipline
  rw [if_pos h, ite_self]

/-- The consumer port of `RB_BUS` is not reached by itself (R22). -/
theorem discipline_of_directBusRead (hp : performer i = a) (h : isDirectBusRead i = true) :
    discipline a i s = some (.noStep .notReachable) := by
  have he : isDirectBusEnqueue i = false := by
    unfold isDirectBusRead at h
    split at h
    · rfl
    · rfl
    · cases h
  simp [discipline, hp, he, h]

/-- No agent begins an operation inside another of its own (R69). -/
theorem discipline_of_isBusy (hr : isDirectBusRead i = false) (h : isBusy a i s = true) :
    discipline a i s = some .spscViolation := by
  unfold discipline
  split_ifs <;> simp_all

theorem isDirectBusRead_eq_false (hdeq : i ≠ .rbDeq .bus) (hempty : i ≠ .rbEmpty .bus) :
    isDirectBusRead i = false := by
  unfold isDirectBusRead
  split
  · exact absurd rfl hdeq
  · exact absurd rfl hempty
  · rfl

end

/-! ### The edges -/

/-- A clock assertion sets the pending bit, and is lost where that is set (R156). -/
theorem clockEdge_eq (s : State) : clockEdge s = { s with
    irqPending := true
    trace := if s.irqPending then s.trace ++ [.drop .lostEdge] else s.trace } := by
  unfold clockEdge
  split <;> rfl

/-- A start edge begins a frame, unless one is in progress (R186). -/
theorem startFrame_eq (s : State) : startFrame s =
    if s.sbdBusy then s else { s with sbdBusy := true, sbdT0 := s.time, sbdK := 0 } := rfl

end Sys2Proof.Machine

open Sys2Proof Sys2Proof.Machine

/-- Settles O10. -/
theorem stepKeepsConfiguration : Obligations.StepKeepsConfiguration := by
  unfold Obligations.StepKeepsConfiguration
  exact fun s t h => (advances_step h).cfg

/-- Settles O11: the ticks never decrease and the configuration that scales them stays. -/
theorem timeNeverDecreases : Obligations.TimeNeverDecreases := by
  unfold Obligations.TimeNeverDecreases
  intro s t h
  have hstep := advances_step h
  refine ⟨hstep.time, ?_⟩
  unfold State.now
  rw [hstep.cfg]
  exact Nat.div_le_div_right hstep.time

/-- Settles O6: each clause is one of the four breaches of the discipline, which refuses the request. -/
theorem foreignRingOperationIsRefused : Obligations.ForeignRingOperationIsRefused := by
  unfold Obligations.ForeignRingOperationIsRefused
  intro s q a u rest b w k start stop i hq hpending hdecode
  have refused {x : Refusal} (hd : discipline a i s = some x) : step s = .refused x :=
    step_refused_of_discipline hq hpending hdecode hd
  refine ⟨?_, fun ha => refused (discipline_of_foreign ha), ?_, ?_, ?_, ?_, ?_, ?_, ?_, ?_⟩
  · rintro ⟨r, ⟨rfl, ha⟩ | ⟨rfl | rfl, ha⟩⟩ <;> exact refused (discipline_of_foreign ha)
  · rintro rfl
    exact refused (discipline_of_directBusEnqueue rfl)
  · rintro rfl (rfl | rfl) <;> exact refused (discipline_of_directBusRead rfl rfl)
  · rintro rfl hop hdeq hempty
    exact refused (discipline_of_isBusy (isDirectBusRead_eq_false hdeq hempty)
      (by simp [isBusy, Option.isSome_iff_ne_none.2 hop]))
  · rintro rfl hphase hbus hdeq hempty
    exact refused (discipline_of_isBusy (isDirectBusRead_eq_false hdeq hempty)
      (by simp [isBusy, hphase, hbus]))
  · rintro rfl hop rfl
    exact refused (discipline_of_isBusy rfl (by simp [isBusy, isEdge, Option.isSome_iff_ne_none.2 hop]))
  · rintro rfl hop (rfl | rfl | rfl | rfl) <;>
      exact refused (discipline_of_isBusy rfl
        (by simp [isBusy, isEdge, Option.isSome_iff_ne_none.2 hop]))
  · rintro rfl hbusy rfl
    exact refused (discipline_of_isBusy rfl (by simp [isBusy, isOwnEnqueue, hbusy]))
  · rintro rfl hop (rfl | rfl) <;>
      exact refused (discipline_of_isBusy rfl
        (by simp [isBusy, isWholeFrame, Option.isSome_iff_ne_none.2 hop]))

/-- Settles O17: both tests read `tail` once and compare it with `head`. -/
theorem emptinessTestsReportTheView : Obligations.EmptinessTestsReportTheView := by
  unfold Obligations.EmptinessTestsReportTheView
  intro r s
  refine ⟨rfl, ?_⟩
  rw [decide_not]
  rfl

/-- Settles O35: the label is one clock edge, and so is a rise of `CLK` at a listening unit. -/
theorem edgeSetsThePendingBit : Obligations.EdgeSetsThePendingBit := by
  unfold Obligations.EdgeSetsThePendingBit
  intro s
  refine ⟨?_, fun l rest hpending hdriver => ?_⟩
  · simp only [exec, execBusrEdge, clockEdge_eq]
    rfl
  · simp only [step, advance, hpending, perform, remoteClock, hdriver, if_false, edgeIfListening,
      clockEdge_eq]
    by_cases hrise : l = true ∧ s.clk = false
    · by_cases hlisten : s.cfg.listens = true <;> simp [hrise, hlisten]
    · have hno : ¬ (l = true ∧ s.clk = false ∧ s.cfg.listens = true) := fun h => hrise ⟨h.1, h.2.1⟩
      simp [hrise, hno]

/-- Settles O41: the label is one start edge, and so is a fall of `RX`. -/
theorem startEdgeBeginsAFrame : Obligations.StartEdgeBeginsAFrame := by
  unfold Obligations.StartEdgeBeginsAFrame
  intro s
  refine ⟨?_, fun l rest hpending => ?_⟩
  · cases hbusy : s.sbdBusy <;> simp [exec, execSbdStart, startFrame_eq, hbusy, State.respond]
  · simp only [step, advance, hpending, perform, driveRx, startFrame_eq]
    by_cases hfall : s.rx = true ∧ l = false
    · cases hbusy : s.sbdBusy <;> simp [hfall]
    · have hno : ¬ (s.rx = true ∧ l = false ∧ s.sbdBusy = false) := fun h => hfall ⟨h.1, h.2.1⟩
      simp [hfall, hno]
end

section
/-! PROOF. The ring buffer as the queue of its contents (R26, R124), and what a read of the other side's
index returns (R71, R72). -/

namespace Sys2Proof.Machine

open Sys2Proof

/-! ### Distances -/

/-- As many cells on from `a` as `b` lies ahead is `b`. -/
theorem add_ahead_mod {n a b : Nat} (ha : a < n) (hb : b < n) : (a + ahead n a b) % n = b := by
  rw [ahead_eq ha hb]
  split
  · rw [show a + (b - a) = b by omega, Nat.mod_eq_of_lt hb]
  · rw [show a + (b + n - a) = b + n by omega, Nat.add_mod_right, Nat.mod_eq_of_lt hb]

/-- The cell `k` on from `a` lies `k` ahead of it. -/
theorem ahead_add_mod {n a k : Nat} (ha : a < n) (hk : k < n) : ahead n a ((a + k) % n) = k := by
  have hmod : (a + k) % n < n := Nat.mod_lt _ (by omega)
  rw [ahead_eq ha hmod]
  rcases lt_or_ge (a + k) n with h | h
  · rw [Nat.mod_eq_of_lt h]
    split <;> omega
  · rw [Nat.mod_eq_sub_mod h, Nat.mod_eq_of_lt (by omega)]
    split <;> omega

/-! ### Contents -/

namespace Ring

variable {n : Nat} {q : Ring}

/-- RB.ENQ's store and publication append the byte (R121, R124). -/
theorem contents_enqueue (hwf : q.buf.wf) (hh : q.head < n) (ht : q.tail < n)
    (hroom : q.count n + 1 < n) (b : Byte) :
    Ring.contents n { q with buf := q.buf.write q.tail b, tail := nextIndex n q.tail } =
      q.contents n ++ [b] := by
  have hcount : Ring.count n { q with buf := q.buf.write q.tail b, tail := nextIndex n q.tail } =
      q.count n + 1 := ahead_nextIndex_right (a := q.head) hh ht hroom
  have hheld : ∀ k ∈ List.range (q.count n),
      (q.buf.write q.tail b).read ((q.head + k) % n) = q.buf.read ((q.head + k) % n) := fun k hk =>
    Memory.read_write_of_ne _ _ _ _ (add_mod_ne_of_lt_ahead hh ht (List.mem_range.1 hk)).symm
  have hlast : (q.head + q.count n) % n = q.tail := add_ahead_mod hh ht
  unfold Ring.contents
  rw [hcount, List.range_succ, List.map_append, List.map_congr_left hheld, List.map_singleton, hlast,
    Memory.read_write_self hwf]

/-- The oldest byte held is that of cell `head`; RB.DEQ's publication leaves the others (R122, R124). -/
theorem contents_dequeue (hh : q.head < n) (ht : q.tail < n) (hne : q.head ≠ q.tail) :
    q.contents n = q.buf.read q.head :: Ring.contents n { q with head := nextIndex n q.head } := by
  have hcount : Ring.count n { q with head := nextIndex n q.head } + 1 = q.count n :=
    ahead_nextIndex_left hh ht hne
  have hcell : ∀ k, (q.head + (k + 1)) % n = (nextIndex n q.head + k) % n := by
    intro k
    rw [nextIndex, Nat.mod_add_mod, Nat.add_right_comm, Nat.add_assoc]
  unfold Ring.contents
  rw [← hcount, List.range_succ_eq_map, List.map_cons, List.map_map, Nat.add_zero, Nat.mod_eq_of_lt hh]
  refine congrArg _ (List.map_congr_left fun k _ => ?_)
  exact congrArg _ (hcell k)

/-- An empty buffer holds nothing. -/
theorem contents_empty (hh : q.head < n) (he : q.head = q.tail) : q.contents n = [] := by
  have hcount : q.count n = 0 := by rw [Ring.count, ← he, ahead_self hh]
  simp [Ring.contents, hcount]

/-- The buffer is full exactly where it holds as many bytes as its capacity (R26). -/
theorem nextIndex_tail_eq_head_iff {c : Config} {r : RingId} (hh : q.head < slots c r)
    (ht : q.tail < slots c r) :
    nextIndex (slots c r) q.tail = q.head ↔ ¬ q.count (slots c r) < capacity c r := by
  have hlt : q.count (slots c r) < slots c r := ahead_lt (by omega)
  rw [nextIndex_eq_iff hh ht]
  unfold Ring.count slots at *
  omega

end Ring

/-! ### The enqueue's answer -/

/-- The producer's port of `r` holds the answer RB.ENQ gave. -/
theorem respond_producer (r : RingId) (x : Response) (s : State) :
    (if r = .bus then (s.respond (producer r) x).busrResp else (s.respond (producer r) x).sbdResp) = x := by
  cases r <;> rfl

/-! ### Views -/

/-- A stale view is one of the values held since the last read, as far behind as it was not moved on. -/
theorem staleIndex_spec {n held now : Nat} (lag : Nat) (hh : held < n) (hn : now < n) :
    ∃ k, k ≤ ahead n held now ∧ staleIndex n held now lag = (held + k) % n ∧
      ahead n (staleIndex n held now lag) now = ahead n held now - k := by
  have hk : lag % (ahead n held now + 1) ≤ ahead n held now :=
    Nat.lt_succ_iff.1 (Nat.mod_lt _ (Nat.succ_pos _))
  have hlt : ahead n held now < n := ahead_lt (by omega)
  refine ⟨_, hk, rfl, ?_⟩
  have hbetween := staleIndex_between lag hh hn
  have hfrom : ahead n held (staleIndex n held now lag) = lag % (ahead n held now + 1) :=
    ahead_add_mod hh (by omega)
  omega

/-- A stale view is never behind the last one, if that lay behind what was held and that behind the index
by less than a round (R72). -/
theorem staleIndex_forward {n seen held now : Nat} (lag : Nat) (hs : seen < n) (hh : held < n)
    (hn : now < n) (hlag : ahead n seen held + ahead n held now < n) :
    ahead n seen (staleIndex n held now lag) + ahead n (staleIndex n held now lag) now =
      ahead n seen now := by
  have hbetween := staleIndex_between lag hh hn
  have hsum := ahead_add hs hh hn hlag
  exact ahead_split hs (staleIndex_lt _ _ _ _ (by omega)) hn (by omega)

end Sys2Proof.Machine

open Sys2Proof Sys2Proof.Machine

/-- Settles O18: the buffer has room exactly where it holds fewer bytes than its capacity, and then the
store and the publication append the byte. -/
theorem enqueueAppendsToContents : Obligations.EnqueueAppendsToContents := by
  unfold Obligations.EnqueueAppendsToContents
  intro r b s hv hsound
  obtain ⟨hwf, -, hh, ht, -⟩ := hsound
  refine ⟨s.enqueued r b, execRbEnq_immediate hv ht b, ?_⟩
  have hfull : nextIndex (s.slotsOf r) (s.ring r).tail = (s.ring r).head ↔
      ¬ (s.ring r).count (slots s.cfg r) < capacity s.cfg r := Ring.nextIndex_tail_eq_head_iff hh ht
  unfold State.enqueued
  split
  · rename_i hlt
    have hroom : (s.ring r).count (slots s.cfg r) + 1 < slots s.cfg r := by unfold slots at *; omega
    rw [if_neg fun hf => hfull.1 hf hlt]
    refine ⟨?_, by simp, respond_producer r _ _⟩
    rw [State.respond_ring, State.ring_setRing]
    exact Ring.contents_enqueue hwf hh ht hroom b
  · rename_i hge
    rw [if_pos (hfull.2 hge)]
    exact ⟨by simp, by simp, respond_producer r _ _⟩

/-- Settles O19: an empty buffer answers none; else the byte of cell `head` is the first of the contents,
and the publication leaves the rest. -/
theorem dequeueRemovesFirstOfContents : Obligations.DequeueRemovesFirstOfContents := by
  unfold Obligations.DequeueRemovesFirstOfContents
  intro r s hv hsound
  obtain ⟨-, -, hh, ht, -⟩ := hsound
  by_cases he : (s.ring r).head = (s.ring r).tail
  · refine ⟨_, execRbDeq_empty hv he, ?_⟩
    rw [Ring.contents_empty hh he]
    exact ⟨by simp, rfl, rfl⟩
  · refine ⟨_, execRbDeq_nonempty hv hh he, ?_⟩
    rw [Ring.contents_dequeue hh ht he]
    refine ⟨?_, rfl, by simp [publishHead]⟩
    simp [publishHead, State.slotsOf]

/-- Settles O20: what a stale read returns lies between what it could have returned before and the present
index. -/
theorem otherIndexReadStaysWithinHeldValues : Obligations.OtherIndexReadStaysWithinHeldValues := by
  unfold Obligations.OtherIndexReadStaysWithinHeldValues
  intro r s hsound
  obtain ⟨-, -, hh, ht, hsh, hst, hhh, hht⟩ := hsound
  refine ⟨fun hv => ⟨readHead_immediate hv r, readTail_immediate hv r⟩, fun hv => ?_⟩
  rw [readHead_stale hv, readTail_stale hv]
  refine ⟨staleIndex_spec _ hhh hh, by simp, staleIndex_spec _ hht ht, by simp, ?_⟩
  rintro ⟨hhead, htail⟩
  have hcount : (s.ring r).count (slots s.cfg r) < slots s.cfg r := ahead_lt (by omega)
  simp only [Ring.headLag, Ring.tailLag] at hhead htail
  exact ⟨staleIndex_forward _ hsh hhh hh (by omega), staleIndex_forward _ hst hht ht (by omega)⟩
end

section
/-! PROOF. What the producer engines and the environment leave alone: the client's part of the state
(R20, R43, R276), and of RB.ENQ also every cell but one (R125 (3)). -/

namespace Sys2Proof.Machine

open Sys2Proof

/-! ### Updates of no field of the client's -/

theorem clientState_respond {a : Agent} (ha : a ≠ .client) (x : Response) (s : State) :
    (s.respond a x).clientState = s.clientState := by
  cases a with
  | client => exact absurd rfl ha
  | busr => rfl
  | sbd => rfl
  | env => rfl

theorem clientState_setEnqOp (r : RingId) (x : Option EnqOp) (s : State) :
    (s.setEnqOp r x).clientState = s.clientState := by
  cases r <;> rfl

theorem clientState_endHandler (r : RingId) (s : State) :
    (endHandler r s).clientState = s.clientState := by
  cases r <;> rfl

/-- A ring buffer is the client's by its `head` and by its view of `tail` only. -/
theorem clientState_setRing {r : RingId} {q : Ring} {s : State} (hhead : q.head = (s.ring r).head)
    (hseen : q.seenTail = (s.ring r).seenTail) (hheld : q.heldTail = (s.ring r).heldTail) :
    (s.setRing r q).clientState = s.clientState := by
  cases r <;> simp only [State.ring] at hhead hseen hheld <;>
    simp only [State.clientState, State.setRing, hhead, hseen, hheld] <;> rfl

/-- The consumer side of every ring buffer is part of the client's state. -/
theorem consumerSide_of_clientState {s t : State} (h : t.clientState = s.clientState) (r : RingId) :
    (t.ring r).head = (s.ring r).head ∧ (t.ring r).seenTail = (s.ring r).seenTail ∧
      (t.ring r).heldTail = (s.ring r).heldTail := by
  cases r with
  | bus =>
    exact ⟨congrArg ClientState.busHead h, congrArg ClientState.busSeenTail h,
      congrArg ClientState.busHeldTail h⟩
  | ser =>
    exact ⟨congrArg ClientState.serHead h, congrArg ClientState.serSeenTail h,
      congrArg ClientState.serHeldTail h⟩

/-- Where this unit does not drive the bus, its lines are not the client's. -/
theorem clientState_remoteLines {s : State} (hd : s.busDriver ≠ .this) (b : Byte) (l : Bool) :
    State.clientState { s with d := b, clk := l, busDriver := .remote } = s.clientState := by
  simp [State.clientState, hd]

theorem clientState_edgeIfListening (s : State) : (edgeIfListening s).clientState = s.clientState := by
  rcases edgeIfListening_cases s with h | h | h <;> rw [h] <;> rfl

theorem clientState_startFrame (s : State) : (startFrame s).clientState = s.clientState := by
  rcases startFrame_cases s with ⟨-, h⟩ | ⟨-, h⟩ <;> rw [h]
  rfl

/-! ### The enqueue -/

/-- What every part of RB.ENQ leaves alone: the client's state, and the other ring buffer. -/
structure ProducerFrame (r : RingId) (s t : State) : Prop where
  client : t.clientState = s.clientState
  other : ∀ r' ≠ r, t.ring r' = s.ring r'

theorem ProducerFrame.trans {r : RingId} {s t u : State} (h : ProducerFrame r s t)
    (h' : ProducerFrame r t u) : ProducerFrame r s u :=
  ⟨h'.client.trans h.client, fun r' hr => (h'.other r' hr).trans (h.other r' hr)⟩

theorem producerFrame_setRing {r : RingId} {q : Ring} {s : State} (hhead : q.head = (s.ring r).head)
    (hseen : q.seenTail = (s.ring r).seenTail) (hheld : q.heldTail = (s.ring r).heldTail) :
    ProducerFrame r s (s.setRing r q) :=
  ⟨clientState_setRing hhead hseen hheld, fun _ hr => s.ring_setRing_of_ne q hr⟩

/-- The producer's read of `head` leaves alone even the cells. -/
theorem readHead_frame (r : RingId) (s : State) :
    ProducerFrame r s (readHead r s).2 ∧ ((readHead r s).2.ring r).buf = (s.ring r).buf := by
  rcases readHead_cases r s with h | ⟨i, h, -⟩ <;> rw [h]
  · exact ⟨⟨rfl, fun _ _ => rfl⟩, rfl⟩
  · have hset : ProducerFrame r s
        (s.setRing r { s.ring r with seenHead := i, heldHead := (s.ring r).head }) :=
      producerFrame_setRing rfl rfl rfl
    exact ⟨⟨hset.client, by simpa using hset.other⟩, by simp⟩

theorem writeCell_frame {r : RingId} {i : Nat} {b : Byte} {s t : State}
    (h : writeCell r i b s = .ok t) : ProducerFrame r s t := by
  obtain ⟨-, rfl⟩ := writeCell_cases h
  exact producerFrame_setRing rfl rfl rfl

theorem publishTail_frame (r : RingId) (n : Nat) (s : State) : ProducerFrame r s (publishTail r n s) :=
  producerFrame_setRing rfl rfl rfl

theorem enqueue_frame {r : RingId} {b : Byte} {ok : Bool} {s t : State}
    (h : enqueue r b s = .ok (ok, t)) : ProducerFrame r s t := by
  obtain ⟨hread, -⟩ := readHead_frame r s
  rcases enqueue_cases h with ⟨-, -, rfl⟩ | ⟨-, -, u, hu, rfl⟩
  · exact hread.trans ⟨rfl, fun _ _ => State.drop_ring _ _ _⟩
  · exact hread.trans ((writeCell_frame hu).trans (publishTail_frame _ _ _))

/-- RB.ENQ writes no cell but `tail`. -/
theorem enqueue_read_of_ne {r : RingId} {b : Byte} {ok : Bool} {s t : State}
    (h : enqueue r b s = .ok (ok, t)) {i : Nat} (hi : i ≠ (s.ring r).tail) :
    (t.ring r).buf.read i = (s.ring r).buf.read i := by
  obtain ⟨-, hbuf⟩ := readHead_frame r s
  rcases enqueue_cases h with ⟨-, -, rfl⟩ | ⟨-, -, u, hu, rfl⟩
  · rw [State.drop_ring, hbuf]
  · obtain ⟨-, rfl⟩ := writeCell_cases hu
    simp only [publishTail, State.ring_setRing, hbuf]
    exact Memory.read_write_of_ne _ _ _ _ hi.symm

/-! ### Outcomes that leave the client's state alone -/

/-- The next state of the outcome, if it is one, has the client's state of `s`. -/
abbrev KeepsClient (s : State) : Out → Prop := Yields fun t => t.clientState = s.clientState

theorem KeepsClient.of_eq {s t : State} {o : Out} (h : t.clientState = s.clientState)
    (ho : KeepsClient t o) : KeepsClient s o := by
  rwa [KeepsClient, h] at ho

theorem KeepsClient.andThen {s : State} {o : Out} {f : State → Out} (ho : KeepsClient s o)
    (hf : ∀ t, o = .next t → KeepsClient t (f t)) : KeepsClient s (andThen o f) :=
  Yields.andThen ho fun t ht hst => KeepsClient.of_eq hst (hf t ht)

theorem KeepsClient.respond {s : State} {o : Out} (ho : KeepsClient s o) {a : Agent} (ha : a ≠ .client)
    (x : Response) : KeepsClient s (Machine.andThen o fun t => .next (t.respond a x)) :=
  ho.andThen fun t _ => clientState_respond ha x t

theorem keepsClient_enqueueIgnoring (r : RingId) (b : Byte) (s : State) :
    KeepsClient s (enqueueIgnoring r b s) := by
  unfold enqueueIgnoring
  split
  · exact (enqueue_frame ‹_›).client
  · trivial

theorem producer_ne_client (r : RingId) : producer r ≠ .client := by cases r <;> decide

theorem execRbEnq_next {r : RingId} {b : Byte} {s t : State} (h : execRbEnq r b s = .next t) :
    ∃ ok u, enqueue r b s = .ok (ok, u) ∧ t = u.respond (producer r) (.bool ok) := by
  unfold execRbEnq at h
  split at h
  · rename_i ok u hu
    exact ⟨ok, u, hu, (Host.Outcome.next.inj h).symm⟩
  · simp at h

theorem keepsClient_execRbEnq (r : RingId) (b : Byte) (s : State) : KeepsClient s (execRbEnq r b s) := by
  unfold execRbEnq
  split
  · exact (clientState_respond (producer_ne_client r) _ _).trans (enqueue_frame ‹_›).client
  · trivial

theorem clientState_finishEnq (r : RingId) (use : EnqUse) (ok : Bool) (s : State) :
    (finishEnq r use ok s).clientState = s.clientState := by
  have hanswer := fun x u => clientState_respond (producer_ne_client r) x u
  cases use with
  | plain => exact (hanswer _ _).trans (clientState_setEnqOp _ _ _)
  | handler =>
    exact (hanswer _ _).trans ((clientState_endHandler _ _).trans (clientState_setEnqOp _ _ _))

theorem keepsClient_enqMicro (r : RingId) (s : State) : KeepsClient s (enqMicro r s) := by
  unfold enqMicro
  split
  · trivial
  · rename_i op _
    obtain ⟨b, p, use⟩ := op
    cases p with
    | m1 => exact clientState_setEnqOp _ _ _
    | m2 t => exact (clientState_setEnqOp _ _ _).trans (readHead_frame r s).1.client
    | m3 t i =>
      dsimp only
      split
      · exact clientState_finishEnq r use false (s.drop _)
      · exact clientState_setEnqOp _ _ _
    | m4 t i =>
      dsimp only
      split
      · exact (clientState_setEnqOp _ _ _).trans (writeCell_frame ‹_›).client
      · trivial
    | m5 i => exact (clientState_finishEnq r use true _).trans (publishTail_frame r i s).client

theorem keepsClient_completeEnq (r : RingId) (s : State) : KeepsClient s (completeEnq r s) := by
  have hmicros : ∀ (k : Nat) (s : State), KeepsClient s (enqMicros r k s) := by
    intro k
    induction k with
    | zero => exact fun s => rfl
    | succ k ih =>
      intro s
      unfold enqMicros
      split
      · exact (keepsClient_enqMicro r s).andThen fun t _ => ih t
      · rfl
  exact hmicros 5 s

/-! ### The reader and the remote writer -/

theorem keepsClient_execBusrService (s : State) : KeepsClient s (execBusrService s) := by
  have hservice : KeepsClient s (serviceBus s) := by
    unfold serviceBus
    split
    · exact keepsClient_enqueueIgnoring .bus _ (sampleBus s).2
    · trivial
  exact hservice.respond (by decide) _

theorem keepsClient_serviceInHold (s : State) : KeepsClient s (serviceInHold s) := by
  unfold serviceInHold
  split
  · exact (keepsClient_completeEnq .bus s).andThen fun t _ => keepsClient_execBusrService t
  · rfl

theorem keepsClient_remoteDrive (b : Byte) (s : State) : KeepsClient s (remoteDrive b s) := by
  cases hr : remoteDrive b s with
  | next t =>
    obtain ⟨hd, -, rfl⟩ := remoteDrive_next hr
    exact clientState_remoteLines hd b s.clk
  | fault x => trivial
  | refused x => trivial

theorem keepsClient_remoteClock (l : Bool) (s : State) : KeepsClient s (remoteClock l s) := by
  cases hr : remoteClock l s with
  | next t =>
    obtain ⟨hd, ht⟩ := remoteClock_next hr
    have hlines := clientState_remoteLines hd s.d l
    rcases ht with rfl | ⟨-, -, rfl⟩
    · exact hlines
    · exact (clientState_edgeIfListening _).trans hlines
  | fault x => trivial
  | refused x => trivial

theorem keepsClient_execByte (b : Byte) (s : State) : KeepsClient s (execByte b s) := by
  unfold execByte
  split
  · trivial
  · exact (keepsClient_remoteDrive b s).andThen fun t _ => (keepsClient_remoteClock true t).andThen
      fun u _ => (keepsClient_serviceInHold u).andThen fun v _ => keepsClient_remoteClock false v

/-! ### The serial decoder -/

theorem keepsClient_finishFrame (s : State) : KeepsClient s (finishFrame s) := by
  unfold finishFrame
  dsimp only
  split
  · rfl
  · exact (keepsClient_enqueueIgnoring .ser _ s).andThen fun t _ => clientState_endHandler .ser t

theorem clientState_loadFrame (w : Slots) (s : State) : (loadFrame w s).clientState = s.clientState :=
  clientState_startFrame s

theorem keepsClient_wholeFrame (w : Slots) (s : State) : KeepsClient s (wholeFrame w s) := by
  unfold wholeFrame
  split
  · trivial
  · exact KeepsClient.of_eq (clientState_loadFrame w s) (keepsClient_finishFrame _)

theorem clientState_beginFinish (s : State) : (beginFinish s).clientState = s.clientState := by
  unfold beginFinish
  dsimp only
  split
  · rfl
  · rfl

/-! ### The requests of the engines and of the environment -/

/-- No operation that is not the client's changes the client's state. -/
theorem keepsClient_exec {i : Instr} (hi : performer i ≠ .client) (s : State) :
    KeepsClient s (exec i s) := by
  cases i with
  | rbEnq r b => exact keepsClient_execRbEnq r b s
  | busrEdge =>
    rw [exec, execBusrEdge, clockEdge_eq]
    rfl
  | busrService => exact keepsClient_execBusrService s
  | sbdStart => exact clientState_startFrame s
  | sbdSample k =>
    rw [exec, execSbdSample]
    split
    · rfl
    · trivial
  | sbdFinish =>
    rw [exec, execSbdFinish]
    split
    · exact (keepsClient_finishFrame s).respond (by decide) _
    · trivial
  | sbdFrame w => exact (keepsClient_wholeFrame w s).respond (by decide) _
  | byte b => exact keepsClient_execByte b s
  | serData w => exact keepsClient_wholeFrame w s
  | serKeepalive start stop => exact keepsClient_wholeFrame _ s
  | _ => exact absurd rfl hi

/-- Nor does the beginning of one at micro-step grain. -/
theorem keepsClient_beginOp {i : Instr} (hi : performer i ≠ .client) (s : State) :
    KeepsClient s (beginOp i s) := by
  cases i with
  | rbEnq r b => exact clientState_setEnqOp _ _ _
  | busrService =>
    rw [beginOp]
    split
    · rfl
    · trivial
  | sbdFinish =>
    rw [beginOp]
    split
    · exact clientState_beginFinish s
    · trivial
  | sbdFrame w =>
    rw [beginOp]
    split
    · trivial
    · exact (clientState_beginFinish _).trans (clientState_loadFrame w s)
  | busrEdge => exact keepsClient_exec hi s
  | sbdStart => exact keepsClient_exec hi s
  | sbdSample k => exact keepsClient_exec hi s
  | byte b => exact keepsClient_exec hi s
  | serData w => exact keepsClient_exec hi s
  | serKeepalive start stop => exact keepsClient_exec hi s
  | _ => exact absurd rfl hi

theorem keepsClient_agentMicro {a : Agent} (ha : a ≠ .client) (s : State) :
    KeepsClient s (agentMicro a s) := by
  cases a with
  | client => exact absurd rfl ha
  | busr => exact keepsClient_enqMicro .bus s
  | sbd => exact keepsClient_enqMicro .ser s
  | env => trivial

theorem keepsClient_setTime (n : Nat) (s : State) : KeepsClient s (setTime n s) := by
  unfold setTime
  split
  · trivial
  · rfl

theorem keepsClient_driveRx (l : Bool) (s : State) : KeepsClient s (driveRx l s) := by
  unfold driveRx
  dsimp only
  split
  · exact clientState_startFrame { s with rx := l, rxWave := (s.time, l) :: s.rxWave }
  · rfl

theorem keepsClient_sampleDuringDrive {a : Agent} (ha : a ≠ .client) (b : Byte) (s : State) :
    KeepsClient s (sampleDuringDrive a b s) := by
  cases hs : sampleDuringDrive a b s with
  | next t =>
    obtain ⟨-, -, u, hu, rfl⟩ := sampleDuringDrive_next hs
    rcases driveBy_next hu with ⟨hclient, -⟩ | ⟨-, henv⟩
    · exact absurd hclient ha
    · have hdrive : u.clientState = s.clientState := (keepsClient_remoteDrive b s).of_next henv
      exact (clientState_setEnqOp .bus _ _).trans hdrive
  | fault x => trivial
  | refused x => trivial

theorem keepsClient_perform {q : Request} (hq : q.isClients = false) (s : State) :
    KeepsClient s (perform q s) := by
  have hforeign : ∀ {a : Agent} {i : Instr}, a ≠ .client → discipline a i s = none →
      performer i ≠ .client := fun ha hd => (discipline_none hd).1 ▸ ha
  cases q with
  | op a u =>
    have ha : a ≠ .client := by simpa [Request.isClients] using hq
    exact Yields.fetchAnd (fun i hd => keepsClient_exec (hforeign ha hd) s) u
  | start a u =>
    have ha : a ≠ .client := by simpa [Request.isClients] using hq
    exact Yields.fetchAnd (fun i hd => keepsClient_beginOp (hforeign ha hd) s) u
  | micro a => exact keepsClient_agentMicro (by simpa [Request.isClients] using hq) s
  | time n => exact keepsClient_setTime n s
  | rx l => exact keepsClient_driveRx l s
  | driveD b => exact keepsClient_remoteDrive b s
  | driveClk l => exact keepsClient_remoteClock l s
  | driveDuringSample a b =>
    exact keepsClient_sampleDuringDrive (by simpa [Request.isClients] using hq) b s

end Sys2Proof.Machine

open Sys2Proof Sys2Proof.Machine

/-- Settles O13: every request that is not the client's leaves the client's state alone. -/
theorem enginesLeaveClientStateAlone : Obligations.EnginesLeaveClientStateAlone := by
  unfold Obligations.EnginesLeaveClientStateAlone
  intro s t q rest hpending hq h
  unfold step advance at h
  rw [hpending] at h
  exact (keepsClient_perform hq { s with pending := rest }).of_next h

/-- Settles O22: the one cell written is `tail`, which is none of those held, and the client's state holds
the consumer's side of the buffer. -/
theorem enqueueLeavesHeldBytesAlone : Obligations.EnqueueLeavesHeldBytesAlone := by
  unfold Obligations.EnqueueLeavesHeldBytesAlone
  intro r r' b s t hsound h
  obtain ⟨-, -, hh, ht, -⟩ := hsound
  obtain ⟨ok, u, hu, rfl⟩ := execRbEnq_next h
  have hframe := enqueue_frame hu
  have hclient : (u.respond (producer r) (.bool ok)).clientState = s.clientState :=
    (clientState_respond (producer_ne_client r) _ u).trans hframe.client
  obtain ⟨hhead, hseen, hheld⟩ := consumerSide_of_clientState hclient r
  refine ⟨fun i hi => ?_, fun k hk => add_mod_ne_of_lt_ahead hh ht hk, hhead, hseen, hheld, ?_, hclient⟩
  · rw [State.respond_ring]
    exact enqueue_read_of_ne hu hi
  · intro hr
    rw [State.respond_ring]
    exact hframe.other r' hr
end

section
/-! PROOF. One pass of SS.LOOP (R246): by induction on the channels still to check, each checked once, at
times that never decrease. -/

namespace Sys2Proof.Machine

open Sys2Proof

/-! ### One check -/

/-- The record of a channel after a check at time `now` (R245). -/
def Channel.checkedAt (k : Channel) (now : Nat) : Channel :=
  if k.active ∧ k.deadline < now then { k with deadline := k.deadline + k.interval } else k

/-- The pulse of channel `c` when it is checked at time `τ c`, if it is due (R245). -/
def duePulse (ch : List Channel) (τ : Nat → Nat) (c : Nat) : Option Event :=
  match ch[c]? with
  | some k => if k.active ∧ k.deadline < τ c then some (.pulse c (τ c)) else none
  | none => none

theorem duePulse_of_channel {ch : List Channel} {c : Nat} {k : Channel} (h : ch[c]? = some k)
    (τ : Nat → Nat) :
    duePulse ch τ c = if k.active ∧ k.deadline < τ c then some (.pulse c (τ c)) else none := by
  simp only [duePulse, h]

theorem passPulses_eq (ch : List Channel) (τ : Nat → Nat) :
    passPulses ch τ = (List.range ch.length).filterMap (duePulse ch τ) := rfl

/-- A pulse leaves pins that are low as they were: it is its event (R34). -/
theorem pulse_eq_emit {c t n : Nat} {s : State} (hpin : s.stepPin = List.replicate n false) :
    pulse c t s = s.emit (.pulse c t) := by
  have hlow : (pulse c t s).stepPin = s.stepPin := (pulse_stepPin hpin).trans hpin.symm
  calc pulse c t s = { s.emit (.pulse c t) with stepPin := (pulse c t s).stepPin } := rfl
    _ = s.emit (.pulse c t) := by rw [hlow]; rfl

/-- SS.CHECK on a channel there is, the step pins low (R245, R34). -/
theorem check_eq {c n : Nat} {k : Channel} {s : State} (hk : s.ch[c]? = some k)
    (hpin : s.stepPin = List.replicate n false) :
    check c s = .next { s with
      ch := s.ch.set c (k.checkedAt s.now)
      trace := s.trace ++ (duePulse s.ch (fun _ => s.now) c).toList } := by
  simp only [check, hk, duePulse_of_channel hk, Channel.checkedAt]
  by_cases hdue : k.active = true ∧ k.deadline < s.now
  · simp only [if_pos hdue, pulse_eq_emit hpin, Option.toList_some]
    rfl
  · obtain ⟨hc, hget⟩ := List.getElem?_eq_some_iff.1 hk
    have hset : s.ch.set c k = s.ch := hget ▸ List.set_getElem_self hc
    simp only [if_neg hdue, hset, Option.toList_none, List.append_nil]

/-! ### One pass -/

/-- The pass reads the time, perhaps after some has passed, checks the channel, and goes on. -/
theorem checkAll_cons (c : Nat) (cs : List Nat) (again : Bool) (s : State) : ∃ w again',
    checkAll (c :: cs) again s = andThen (check c w) (checkAll cs again') ∧
      s.time ≤ w.time ∧ w = { s with time := w.time, delays := w.delays } := by
  by_cases hreads : readsTime c s = true
  · refine ⟨if again then s.passDelay else s, true, by simp only [checkAll, if_pos hreads], ?_⟩
    cases again with
    | false => exact ⟨le_rfl, rfl⟩
    | true =>
      refine ⟨by simp [State.passDelay_time], ?_⟩
      ext1 <;> simp
  · exact ⟨s, again, by simp only [checkAll, if_neg hreads], le_rfl, rfl⟩

/-- What a pass over the channels in `cs` makes of `s`, channel `c` being checked at time `τ c`. -/
structure Passed (cs : List Nat) (τ : Nat → Nat) (s t : State) : Prop where
  lower : ∀ c, s.now ≤ τ c
  upper : ∀ c, τ c ≤ t.now
  mono : ∀ c c', c ≤ c' → τ c ≤ τ c'
  trace : t.trace = s.trace ++ cs.filterMap (duePulse s.ch τ)
  checked : ∀ c ∈ cs, t.ch[c]? = s.ch[c]?.map (·.checkedAt (τ c))
  others : ∀ c, c ∉ cs → t.ch[c]? = s.ch[c]?
  frame : t = { s with ch := t.ch, trace := t.trace, time := t.time, delays := t.delays }

theorem Passed.nil (s : State) : Passed [] (fun _ => s.now) s s :=
  ⟨fun _ => le_rfl, fun _ => le_rfl, fun _ _ _ => le_rfl, by simp, by simp, fun _ _ => rfl, rfl⟩

/-- A pass over `a` and then the channels above it: `a` is checked at the time first read, `w.now`. -/
theorem Passed.cons {a : Nat} {cs : List Nat} {τ : Nat → Nat} {k : Channel} {s w t : State}
    (hcs : ∀ c ∈ cs, a < c) (htime : s.time ≤ w.time)
    (hw : w = { s with time := w.time, delays := w.delays }) (hk : s.ch[a]? = some k)
    (h : Passed cs τ { w with
      ch := w.ch.set a (k.checkedAt w.now)
      trace := w.trace ++ (duePulse w.ch (fun _ => w.now) a).toList } t) :
    Passed (a :: cs) (fun c => if c ≤ a then w.now else τ c) s t := by
  obtain ⟨hlower, hupper, hmono, htrace, hchecked, hothers, hframe⟩ := h
  have hch : w.ch = s.ch := by rw [hw]
  have hnow : s.now ≤ w.now := by
    have hcfg : w.cfg = s.cfg := by rw [hw]
    unfold State.now
    rw [hcfg]
    exact Nat.div_le_div_right htime
  change ∀ c, w.now ≤ τ c at hlower
  dsimp only at htrace hchecked hothers
  rw [hch] at htrace hchecked hothers
  have hafter : ∀ c ∈ cs, (s.ch.set a (k.checkedAt w.now))[c]? = s.ch[c]? ∧ ¬ c ≤ a := fun c hc =>
    ⟨List.getElem?_set_ne (hcs c hc).ne, not_le.2 (hcs c hc)⟩
  have ha : a ∉ cs := fun h => lt_irrefl a (hcs a h)
  refine ⟨fun c => ?_, fun c => ?_, fun c c' hc => ?_, ?_, ?_, ?_, ?_⟩
  · split
    · exact hnow
    · exact hnow.trans (hlower c)
  · split
    · exact (hlower c).trans (hupper c)
    · exact hupper c
  · split_ifs
    · exact le_rfl
    · exact hlower c'
    · omega
    · exact hmono c c' hc
  · have hfirst : duePulse s.ch (fun c => if c ≤ a then w.now else τ c) a =
        duePulse s.ch (fun _ => w.now) a := by simp [duePulse]
    have hrest : cs.filterMap (duePulse (s.ch.set a (k.checkedAt w.now)) τ) =
        cs.filterMap (duePulse s.ch fun c => if c ≤ a then w.now else τ c) := by
      refine List.filterMap_congr fun c hc => ?_
      obtain ⟨hget, hgt⟩ := hafter c hc
      simp [duePulse, hget, hgt]
    have hwtrace : w.trace = s.trace := by rw [hw]
    rw [htrace, hwtrace, hrest, List.append_assoc, ← hfirst, List.filterMap_cons]
    cases duePulse s.ch (fun c => if c ≤ a then w.now else τ c) a <;> rfl
  · intro c hc
    rcases List.mem_cons.1 hc with rfl | hc
    · have hlen : c < s.ch.length := (List.getElem?_eq_some_iff.1 hk).1
      rw [hothers c ha, hk, List.getElem?_set_self hlen]
      simp
    · obtain ⟨hget, hgt⟩ := hafter c hc
      rw [hchecked c hc, hget, if_neg hgt]
  · intro c hc
    obtain ⟨hne, hnot⟩ := not_or.1 (List.mem_cons.not.1 hc)
    rw [hothers c hnot, List.getElem?_set_ne (Ne.symm hne)]
  · rw [hframe, hw]

theorem checkAll_passed (m : Nat) {a n : Nat} (again : Bool) {s : State} (hlen : a + m ≤ s.ch.length)
    (hpin : s.stepPin = List.replicate n false) :
    ∃ t τ, checkAll (List.range' a m) again s = .next t ∧ Passed (List.range' a m) τ s t := by
  induction m generalizing a again s with
  | zero => exact ⟨s, _, rfl, .nil s⟩
  | succ m ih =>
    obtain ⟨w, again', hcons, htime, hw⟩ := checkAll_cons a (List.range' (a + 1) m) again s
    have hget : s.ch[a]? = some s.ch[a] := List.getElem?_eq_getElem (by omega)
    have hwget : w.ch[a]? = some s.ch[a] := by rw [hw]; exact hget
    have hwpin : w.stepPin = List.replicate n false := by rw [hw]; exact hpin
    have hwlen : w.ch.length = s.ch.length := by rw [hw]
    rw [List.range'_succ, hcons, check_eq hwget hwpin]
    obtain ⟨t, τ, hrun, hpassed⟩ := ih (a := a + 1) again' (s := { w with
      ch := w.ch.set a (s.ch[a].checkedAt w.now)
      trace := w.trace ++ (duePulse w.ch (fun _ => w.now) a).toList })
      (by simp only [List.length_set, hwlen]; omega) hwpin
    refine ⟨t, _, hrun, Passed.cons (fun c hc => ?_) htime hw hget hpassed⟩
    exact (List.mem_range'_1.1 hc).1

/-! ### Counting the pulses -/

theorem pulseCount_append (c : Nat) (l l' : List Event) :
    pulseCount c (l ++ l') = pulseCount c l + pulseCount c l' := by
  simp [pulseCount]

/-- A due channel pulses, and no other channel's pulse counts for it. -/
theorem pulseCount_duePulse (ch : List Channel) (τ : Nat → Nat) (c c' : Nat) :
    pulseCount c (duePulse ch τ c').toList = if c' = c ∧ (duePulse ch τ c).isSome then 1 else 0 := by
  have hsome : ∀ c x, duePulse ch τ c = some x → x = .pulse c (τ c) := by
    intro c x h
    unfold duePulse at h
    split at h
    · split at h
      · exact (Option.some.inj h).symm
      · cases h
    · cases h
  cases h : duePulse ch τ c' with
  | none =>
    have hno : ¬ (c' = c ∧ (duePulse ch τ c).isSome = true) := by
      rintro ⟨rfl, hs⟩
      simp [h] at hs
    rw [if_neg hno]
    rfl
  | some x =>
    obtain rfl := hsome c' x h
    by_cases hc : c' = c
    · subst hc
      simp [pulseCount, h]
    · simp [pulseCount, hc]

/-- A channel there is has pulsed once in the pass if it was due at its time, and not at all else. -/
theorem pulseCount_passPulses {ch : List Channel} {c : Nat} {k : Channel} (hk : ch[c]? = some k)
    (τ : Nat → Nat) :
    pulseCount c (passPulses ch τ) = if k.active ∧ k.deadline < τ c then 1 else 0 := by
  have hupTo : ∀ n, pulseCount c ((List.range n).filterMap (duePulse ch τ)) =
      if c < n ∧ (duePulse ch τ c).isSome then 1 else 0 := by
    intro n
    induction n with
    | zero => rfl
    | succ n ih =>
      have hlast : [n].filterMap (duePulse ch τ) = (duePulse ch τ n).toList := by
        cases h : duePulse ch τ n <;> simp [h]
      rw [List.range_succ, List.filterMap_append, pulseCount_append, ih, hlast, pulseCount_duePulse]
      by_cases hs : (duePulse ch τ c).isSome = true
      · simp only [hs, and_true]
        split_ifs <;> omega
      · simp [hs]
  have hlt : c < ch.length := (List.getElem?_eq_some_iff.1 hk).1
  rw [passPulses_eq, hupTo, duePulse_of_channel hk]
  by_cases hdue : k.active = true ∧ k.deadline < τ c <;> simp [hlt, hdue]

end Sys2Proof.Machine

open Sys2Proof Sys2Proof.Machine

/-- Settles O57: the pass over all channels, from the first. -/
theorem loopChecksEveryChannel : Obligations.LoopChecksEveryChannel := by
  unfold Obligations.LoopChecksEveryChannel
  intro s hinv
  obtain ⟨-, ⟨hlen, hpin, -⟩, -⟩ := s.inv_iff.1 hinv
  obtain ⟨t, τ, hrun, hpassed⟩ := checkAll_passed s.cfg.nCh (a := 0) false (by omega) hpin
  rw [← List.range_eq_range'] at hrun hpassed
  obtain ⟨hlower, hupper, hmono, htrace, hchecked, -, hframe⟩ := hpassed
  rw [← hlen, ← passPulses_eq] at htrace
  refine ⟨t.respond .client .nothing, τ, ?_, fun c => ⟨hlower c, hupper c⟩, hmono, htrace, ?_, ?_⟩
  · simp only [exec, execSsLoop, hrun, andThen]
  · intro c k hk
    have hc : c ∈ List.range s.cfg.nCh :=
      List.mem_range.2 (hlen ▸ (List.getElem?_eq_some_iff.1 hk).1)
    refine ⟨?_, ?_⟩
    · rw [State.respond_ch, hchecked c hc, hk]
      rfl
    · rw [State.respond_trace, htrace, pulseCount_append, pulseCount_passPulses hk]
  · rw [hframe]
    rfl
end

section
/-! PROOF. RB.ENQ and RB.DEQ, one equation each (R121, R122), and what the views of `STALE` let them do
(R72, R73): each read of the other side's index keeps the buffer coherent, and coherence bounds what was
read. -/

namespace Sys2Proof.Machine

open Sys2Proof

/-! ### What the reads of the other side's index leave alone -/

@[simp] theorem readHead_cfg (r : RingId) (s : State) : (readHead r s).2.cfg = s.cfg :=
  (advances_readHead r s).cfg

@[simp] theorem readTail_cfg (r : RingId) (s : State) : (readTail r s).2.cfg = s.cfg :=
  (advances_readTail r s).cfg

@[simp] theorem readHead_trace (r : RingId) (s : State) : (readHead r s).2.trace = s.trace := by
  rcases readHead_cases r s with h | ⟨i, h, -⟩ <;> simp [h]

@[simp] theorem readTail_trace (r : RingId) (s : State) : (readTail r s).2.trace = s.trace := by
  rcases readTail_cases r s with h | ⟨i, h, -⟩ <;> simp [h]

/-- The producer's read of `head` changes the producer's view only. -/
theorem readHead_ring (r : RingId) (s : State) :
    ∃ i j, (readHead r s).2.ring r = { s.ring r with seenHead := i, heldHead := j } := by
  rcases readHead_cases r s with h | ⟨i, h, -⟩ <;> rw [h]
  · exact ⟨_, _, rfl⟩
  · exact ⟨_, _, by rw [State.useFree_ring, State.ring_setRing]⟩

/-- The consumer's read of `tail` changes the consumer's view only. -/
theorem readTail_ring (r : RingId) (s : State) :
    ∃ i j, (readTail r s).2.ring r = { s.ring r with seenTail := i, heldTail := j } := by
  rcases readTail_cases r s with h | ⟨i, h, -⟩ <;> rw [h]
  · exact ⟨_, _, rfl⟩
  · exact ⟨_, _, by rw [State.useFree_ring, State.ring_setRing]⟩

/-! ### RB.ENQ in the words of R121 -/

/-- The producer's read leaves `tail` and the cells as they were, so the store is in cell `tail`. -/
theorem afterEnqueue_eq (r : RingId) (b : Byte) (s : State) : afterEnqueue r b s =
    if nextIndex (s.slotsOf r) (s.ring r).tail = (readHead r s).1 then
      (false, (readHead r s).2.drop (.rbFull r b))
    else
      (true, (readHead r s).2.setRing r { (readHead r s).2.ring r with
        buf := ((readHead r s).2.ring r).buf.write (s.ring r).tail b
        tail := nextIndex (s.slotsOf r) (s.ring r).tail }) := by
  obtain ⟨i, j, hring⟩ := readHead_ring r s
  have htail : ((readHead r s).2.ring r).tail = (s.ring r).tail := by rw [hring]
  rw [← htail]
  rfl

/-- With `tail` inside the buffer the cell written exists, so RB.ENQ does not fault. -/
theorem enqueue_eq_afterEnqueue {r : RingId} {s : State} (ht : (s.ring r).tail < s.slotsOf r) (b : Byte) :
    enqueue r b s = .ok (afterEnqueue r b s) := by
  unfold enqueue
  by_cases hfull : nextIndex (s.slotsOf r) (s.ring r).tail = (readHead r s).1
  · simp only [afterEnqueue_eq, if_pos hfull]
  · simp only [afterEnqueue_eq, if_neg hfull, writeCell, readHead_slotsOf, if_pos ht,
      publishTail, State.ring_setRing, State.setRing_setRing]

theorem execRbEnq_eq_afterEnqueue {r : RingId} {s : State} (ht : (s.ring r).tail < s.slotsOf r)
    (b : Byte) : execRbEnq r b s =
      .next ((afterEnqueue r b s).2.respond (producer r) (.bool (afterEnqueue r b s).1)) := by
  simp only [execRbEnq, enqueue_eq_afterEnqueue ht]

/-! ### RB.DEQ in the words of R122 -/

/-- The consumer's read leaves `head` and the cells as they were, so the byte taken is that of cell
`head`. -/
theorem afterDequeue_eq (r : RingId) (s : State) : afterDequeue r s =
    if (s.ring r).head = (readTail r s).1 then (none, (readTail r s).2)
    else (some ((s.ring r).buf.read (s.ring r).head),
      publishHead r (s.ring r).head ((s.ring r).buf.read (s.ring r).head) (readTail r s).2) := by
  obtain ⟨i, j, hring⟩ := readTail_ring r s
  have hhead : ((readTail r s).2.ring r).head = (s.ring r).head := by rw [hring]
  have hbuf : ((readTail r s).2.ring r).buf = (s.ring r).buf := by rw [hring]
  have hslots : (readTail r s).2.slotsOf r = s.slotsOf r := by simp [State.slotsOf]
  rw [publishHead, hslots, ← hhead, ← hbuf]
  rfl

/-- With `head` inside the buffer the cell read exists, so RB.DEQ does not fault. -/
theorem dequeue_eq_afterDequeue {r : RingId} {s : State} (hh : (s.ring r).head < s.slotsOf r) :
    dequeue r s = .ok (afterDequeue r s) := by
  obtain ⟨i, j, hring⟩ := readTail_ring r s
  have hcell : (s.ring r).head < (readTail r s).2.slotsOf r := by simpa [State.slotsOf] using hh
  unfold dequeue
  by_cases hempty : (s.ring r).head = (readTail r s).1
  · simp only [afterDequeue_eq, if_pos hempty]
  · simp only [afterDequeue_eq, if_neg hempty, readCell, if_pos hcell, hring]

theorem execRbDeq_eq_afterDequeue {r : RingId} {s : State} (hh : (s.ring r).head < s.slotsOf r) :
    execRbDeq r s =
      .next ((afterDequeue r s).2.respond .client (.optByte (afterDequeue r s).1)) := by
  simp only [execRbDeq, dequeue_eq_afterDequeue hh]

theorem afterDequeue_cfg (r : RingId) (s : State) : (afterDequeue r s).2.cfg = s.cfg := by
  rw [afterDequeue_eq]
  split <;> simp [publishHead]

/-! ### Coherence -/

section

variable {r : RingId} {s : State} {e : Option EnqPoint} {d : Option DeqPoint}

/-- The producer's read leads from a coherent buffer to the test of m3 (R72). -/
theorem coherent_readHead (h : (s.ring r).Coherent s.cfg.rbView (slots s.cfg r) e d) :
    ((readHead r s).2.ring r).Coherent s.cfg.rbView (slots s.cfg r)
      (some (.m3 (s.ring r).tail (readHead r s).1)) d := by
  obtain ⟨-, -, hh, -, -, -, hhh, -⟩ := h.sound
  cases hv : s.cfg.rbView with
  | immediate =>
    rw [hv] at h
    rw [readHead_immediate hv]
    exact h.enq_m2_immediate
  | stale =>
    rw [hv] at h
    rw [readHead_stale hv, State.useFree_ring, State.ring_setRing]
    exact h.enq_m2_stale (staleIndex_lt _ _ _ _ (Nat.zero_lt_of_lt hh)) (staleIndex_between _ hhh hh)

/-- The consumer's read leads from a coherent buffer to the test of m3 (R72). -/
theorem coherent_readTail (h : (s.ring r).Coherent s.cfg.rbView (slots s.cfg r) e d) :
    ((readTail r s).2.ring r).Coherent s.cfg.rbView (slots s.cfg r) e
      (some (.m3 (s.ring r).head (readTail r s).1)) := by
  obtain ⟨-, -, -, ht, -, -, -, hht⟩ := h.sound
  cases hv : s.cfg.rbView with
  | immediate =>
    rw [hv] at h
    rw [readTail_immediate hv]
    exact h.deq_m2_immediate
  | stale =>
    rw [hv] at h
    rw [readTail_stale hv, State.useFree_ring, State.ring_setRing]
    exact h.deq_m2_stale (staleIndex_lt _ _ _ _ (Nat.zero_lt_of_lt ht)) (staleIndex_between _ hht ht)

/-- RB.ENQ from its read on is the micro-steps m3 to m5, each of which keeps the buffer coherent. -/
theorem coherent_afterEnqueue (h : (s.ring r).Coherent s.cfg.rbView (slots s.cfg r) e d) (b : Byte) :
    ((afterEnqueue r b s).2.ring r).Coherent s.cfg.rbView (slots s.cfg r) none d := by
  have hread := coherent_readHead h
  by_cases hfull : nextIndex (s.slotsOf r) (s.ring r).tail = (readHead r s).1
  · rw [afterEnqueue_eq, if_pos hfull, State.drop_ring]
    exact hread.endEnq
  · rw [afterEnqueue_eq, if_neg hfull, State.ring_setRing]
    exact ((hread.enq_m3 hfull).enq_m4 b).enq_m5

/-- RB.DEQ from its read on is the micro-steps m3 to m5, each of which keeps the buffer coherent. -/
theorem coherent_afterDequeue (h : (s.ring r).Coherent s.cfg.rbView (slots s.cfg r) e d) :
    ((afterDequeue r s).2.ring r).Coherent s.cfg.rbView (slots s.cfg r) e none := by
  have hread := coherent_readTail h
  by_cases hempty : (s.ring r).head = (readTail r s).1
  · rw [afterDequeue_eq, if_pos hempty]
    exact hread.endDeq
  · have hslots : (readTail r s).2.slotsOf r = slots s.cfg r := by simp [State.slotsOf]
    rw [afterDequeue_eq, if_neg hempty, publishHead, State.emit_ring, State.ring_setRing, hslots]
    exact (hread.deq_m3 hempty).deq_m4.deq_m5

/-! ### What a read can return -/

/-- A full buffer leaves the producer's view no lag: it is seen full (R72). -/
theorem readHead_of_full (h : (s.ring r).Coherent s.cfg.rbView (slots s.cfg r) e d)
    (hfull : nextIndex (slots s.cfg r) (s.ring r).tail = (s.ring r).head) :
    (readHead r s).1 = (s.ring r).head := by
  obtain ⟨-, -, hh, ht, -⟩ := h.sound
  obtain ⟨i, j, hring⟩ := readHead_ring r s
  have hread := coherent_readHead h
  rw [hring] at hread
  obtain ⟨-, hlt, hroom, -⟩ := EnqPoint.fits_m3.1 (hread.enq _ rfl)
  have hcount : ahead (slots s.cfg r) (s.ring r).head (s.ring r).tail = slots s.cfg r - 1 :=
    (nextIndex_eq_iff hh ht).1 hfull
  simp only [Ring.count] at hroom
  exact (ahead_eq_zero hlt hh).1 (by omega)

/-- The consumer never sees more bytes than there are: an empty buffer is seen empty (R72). -/
theorem readTail_of_empty (h : (s.ring r).Coherent s.cfg.rbView (slots s.cfg r) e d)
    (hempty : (s.ring r).head = (s.ring r).tail) : (readTail r s).1 = (s.ring r).head := by
  obtain ⟨-, -, hh, -⟩ := h.sound
  obtain ⟨i, j, hring⟩ := readTail_ring r s
  have hread := coherent_readTail h
  rw [hring] at hread
  obtain ⟨-, hlt, hle, -⟩ := DeqPoint.fits_m3.1 (hread.deq _ rfl)
  simp only [Ring.count, ← hempty, ahead_self hh] at hle
  exact ((ahead_eq_zero hh hlt).1 (Nat.le_zero.1 hle)).symm

end

/-- Under `STALE` the consumer notes what it sees and what it could have seen at the latest (R72). -/
theorem readTail_stale_ring {r : RingId} {s : State} (hv : s.cfg.rbView = .stale) :
    (readTail r s).2.ring r =
      { s.ring r with seenTail := (readTail r s).1, heldTail := (s.ring r).tail } := by
  rw [readTail_stale hv, State.useFree_ring, State.ring_setRing]

theorem staleIndex_self {n i : Nat} (lag : Nat) (hi : i < n) : staleIndex n i i lag = i := by
  simp [staleIndex, ahead_self hi, Nat.mod_one, Nat.mod_eq_of_lt hi]

/-- Where nothing was published since the consumer's last read, it sees the present `tail` (R72). -/
theorem readTail_of_held {r : RingId} {s : State} (hv : s.cfg.rbView = .stale)
    (ht : (s.ring r).tail < slots s.cfg r) (hheld : (s.ring r).heldTail = (s.ring r).tail) :
    (readTail r s).1 = (s.ring r).tail := by
  rw [readTail_stale hv, hheld]
  exact staleIndex_self _ ht

/-- Of two dequeues in a row from a buffer that holds a byte, one takes the oldest (R73): a first that
found nothing has noted the present `tail`. -/
theorem afterDequeue_oldest_or_again {r : RingId} {s : State} (hv : s.cfg.rbView = .stale)
    (ht : (s.ring r).tail < slots s.cfg r) (hne : (s.ring r).head ≠ (s.ring r).tail) :
    (afterDequeue r s).1 = some ((s.ring r).buf.read (s.ring r).head) ∨
    (afterDequeue r ((afterDequeue r s).2.respond .client (.optByte (afterDequeue r s).1))).1 =
      some ((s.ring r).buf.read (s.ring r).head) := by
  by_cases hseen : (s.ring r).head = (readTail r s).1
  · right
    have hnone : afterDequeue r s = (none, (readTail r s).2) := by rw [afterDequeue_eq, if_pos hseen]
    rw [hnone]
    generalize hu : (readTail r s).2.respond .client (.optByte none) = u
    have hring : u.ring r =
        { s.ring r with seenTail := (readTail r s).1, heldTail := (s.ring r).tail } := by
      rw [← hu, State.respond_ring, readTail_stale_ring hv]
    have hcfg : u.cfg = s.cfg := by simp [← hu]
    have hagain : (readTail r u).1 = (u.ring r).tail :=
      readTail_of_held (hcfg ▸ hv) (by rw [hring, hcfg]; exact ht) (by rw [hring])
    have hsome : (u.ring r).head ≠ (readTail r u).1 := by
      rw [hagain, hring]
      exact hne
    rw [afterDequeue_eq, if_neg hsome, hring]
  · left
    rw [afterDequeue_eq, if_neg hseen]

end Sys2Proof.Machine

open Sys2Proof Sys2Proof.Machine

/-- Settles O15: with `tail` inside the buffer RB.ENQ does not fault. -/
theorem enqueueStoresOrDropsNewest : Obligations.EnqueueStoresOrDropsNewest := by
  unfold Obligations.EnqueueStoresOrDropsNewest
  exact fun r b s ht => execRbEnq_eq_afterEnqueue ht b

/-- Settles O16: with `head` inside the buffer RB.DEQ does not fault. -/
theorem dequeueTakesOldestOrNothing : Obligations.DequeueTakesOldestOrNothing := by
  unfold Obligations.DequeueTakesOldestOrNothing
  exact fun r s hh => execRbDeq_eq_afterDequeue hh

/-- Settles O21: both operations keep the buffer coherent, which leaves the view of a full or an empty
buffer no lag. -/
theorem staleViewsAreSafe : Obligations.StaleViewsAreSafe := by
  unfold Obligations.StaleViewsAreSafe
  intro r b s hv hsound hviews
  have hcoh : (s.ring r).Coherent s.cfg.rbView (slots s.cfg r) none none :=
    ⟨hsound, hv ▸ hviews, by simp, by simp⟩
  obtain ⟨-, -, hh, ht, -⟩ := hsound
  have henq := coherent_afterEnqueue hcoh b
  have hdeq := coherent_afterDequeue hcoh
  have hcfg := afterDequeue_cfg r s
  have hagain : (((afterDequeue r s).2.respond .client (.optByte (afterDequeue r s).1)).ring r).head <
      ((afterDequeue r s).2.respond .client (.optByte (afterDequeue r s).1)).slotsOf r := by
    obtain ⟨-, -, hh', -⟩ := hdeq.sound
    simpa [State.slotsOf, hcfg] using hh'
  refine ⟨_, _, _, execRbEnq_eq_afterEnqueue ht b, execRbDeq_eq_afterDequeue hh,
    execRbDeq_eq_afterDequeue hagain, ?_, ?_, fun hfull => ?_, fun hempty => ?_, fun hheld => ?_⟩
  · rw [State.respond_ring, ← hv]
    exact henq.views
  · rw [State.respond_ring, ← hv]
    exact hdeq.views
  · have hfull' : nextIndex (slots s.cfg r) (s.ring r).tail = (s.ring r).head := by
      simpa [Ring.isFull] using hfull
    have hseen : nextIndex (s.slotsOf r) (s.ring r).tail = (readHead r s).1 :=
      hfull'.trans (readHead_of_full hcoh hfull').symm
    obtain ⟨i, j, hring⟩ := readHead_ring r s
    rw [afterEnqueue_eq, if_pos hseen]
    simp [hring]
  · have hempty' : (s.ring r).head = (s.ring r).tail := by simpa [Ring.isEmpty] using hempty
    rw [afterDequeue_eq, if_pos (readTail_of_empty hcoh hempty').symm]
    simp
  · have hne : (s.ring r).head ≠ (s.ring r).tail := by simpa [Ring.isEmpty] using hheld
    rcases afterDequeue_oldest_or_again hv ht hne with h | h
    · left
      rw [State.respond_client, h]
    · right
      rw [State.respond_client, h]
end

section
/-! PROOF. The refusals of the operations themselves (R61, R69, R141, R192, R321): each rests on one test
of a shared operation, which the operations built on it begin with. -/

namespace Sys2Proof.Machine

open Sys2Proof

variable {s : State}

theorem remoteDrive_refused (h : s.busDriver = .this ∨ s.clk = true) (b : Byte) :
    remoteDrive b s = .refused .secondWriter := if_pos h

theorem remoteClock_refused (h : s.busDriver = .this) (l : Bool) :
    remoteClock l s = .refused .secondWriter := if_pos h

theorem drive_secondWriter (h : s.busDriver = .remote ∨ s.clk = true) (b : Byte) :
    drive b s = .refused .secondWriter := if_pos h

/-- A drive inside a write in progress (R69, R141). -/
theorem drive_spscViolation (hd : s.busDriver ≠ .remote) (hk : s.clk = false) (hp : s.buswPhase ≠ .idle)
    (b : Byte) : drive b s = .refused .spscViolation := by
  have hwriter : ¬ (s.busDriver = .remote ∨ s.clk = true) := by simp [hd, hk]
  rw [drive, if_neg hwriter, if_neg hp]

/-- Every write of the client begins with its drive, so what refuses that refuses the write (R141). -/
theorem clientWrites_refused {x : Refusal} (h : ∀ b, drive b s = .refused x) (b f1 f2 : Byte) :
    exec (.buswDrive b) s = .refused x ∧ exec (.busWrite b) s = .refused x ∧
      exec (.busSendpkt f1 f2) s = .refused x ∧ exec .busSendready s = .refused x := by
  have hwrite : ∀ b, writeBus b s = .refused x := fun b => by rw [writeBus, h b, andThen]
  refine ⟨?_, ?_, ?_, ?_⟩
  · simp only [exec, execBuswDrive, h, andThen]
  · simp only [exec, execBusWrite, hwrite, andThen]
  · simp only [exec, execBusSendpkt, forEach, hwrite, andThen]
  · simp only [exec, execBusSendready, hwrite, andThen]

theorem execBuswAssert_refused (h : s.buswPhase ≠ .driven) :
    execBuswAssert s = .refused (.noStep .notEnabled) := by
  rw [execBuswAssert, assertClock, if_neg h, andThen]

theorem execBuswDeassert_refused (h : s.buswPhase ≠ .asserted) :
    execBuswDeassert s = .refused (.noStep .notEnabled) := by
  rw [execBuswDeassert, deassertClock, if_neg h, andThen]

/-- A frame inside a frame (R69, R192). -/
theorem wholeFrame_refused (h : s.sbdBusy = true) (w : Slots) :
    wholeFrame w s = .refused .spscViolation := if_pos h

end Sys2Proof.Machine

open Sys2Proof Sys2Proof.Machine

/-- Settles O30: each clause is the refusal of the shared operation that the operations begin with. -/
theorem operationsOutsideTheirConditionAreRefused :
    Obligations.OperationsOutsideTheirConditionAreRefused := by
  unfold Obligations.OperationsOutsideTheirConditionAreRefused
  intro b f1 f2 w l start stop rest s
  refine ⟨fun hpending h => ?_, fun hpending h => ?_, fun h => ?_, fun h => ?_, fun hd hk hp => ?_,
    fun h => ?_, fun h => ?_, fun h => ?_, fun h => ?_⟩
  · rw [step, advance, hpending]
    exact remoteDrive_refused (s := { s with pending := rest }) h b
  · rw [step, advance, hpending]
    exact remoteClock_refused (s := { s with pending := rest }) h l
  · exact clientWrites_refused (drive_secondWriter h) b f1 f2
  · exact if_pos h
  · exact clientWrites_refused (drive_spscViolation hd hk hp) b f1 f2
  · exact execBuswAssert_refused h
  · exact execBuswDeassert_refused h
  · refine ⟨?_, wholeFrame_refused h w, wholeFrame_refused h _⟩
    rw [exec, execSbdFrame, wholeFrame_refused h, andThen]
  · exact if_neg (Nat.not_lt.2 h)
end

section
/-! PROOF. The decoder and the encoder agree (R90 to R104): what decodes is read as the unit its
instruction is written as, format by format, and every well-formed instruction is read back. -/

namespace Sys2Proof

open Sys2Proof.Machine

/-! ### The slots of a serial frame -/

/-- A frame word is its ten slots. -/
theorem slots_ext {w v : Slots} (h : ∀ k < 10, slot w k = slot v k) : w = v := by
  refine BitVec.eq_of_getLsbD_eq fun i hi => ?_
  have hk := h (9 - i) (by omega)
  rwa [slot, slot, Nat.sub_sub_self (by omega)] at hk

/-- Data slot `k + 1` is bit `k` of the byte packed (R188, R189). -/
theorem getLsbD_packData (w : Slots) {k : Nat} (hk : k < 8) : (packData w).getLsbD k = slot w (k + 1) := by
  have hbits : packData w = BitVec.ofFnLE fun i : Fin 8 => slot w (i.val + 1) := by
    apply BitVec.eq_of_toNat_eq
    have hlt := Nat.ofBits_lt_two_pow fun i : Fin 8 => slot w (i.val + 1)
    have hweight : ∀ i n, slotWeight w i n = n * (slot w i).toNat := by
      intro i n
      cases h : slot w i <;> simp [slotWeight, h]
    rw [BitVec.toNat_ofFnLE, packData, BitVec.toNat_ofNat]
    simp only [hweight, Nat.ofBits_succ, Nat.ofBits_zero, Function.comp_apply, Fin.val_succ, Fin.val_zero,
      zero_add, Nat.reduceAdd, Nat.reducePow] at hlt ⊢
    omega
  rw [hbits, BitVec.getLsbD_ofFnLE, dif_pos hk]

/-- The level of slot `k` of a frame that carries `b` (R92). -/
def frameLevel (start : Bool) (b : Byte) (stop : Bool) (k : Nat) : Bool :=
  if k = 0 then start else if k = 9 then stop else b.getLsbD (k - 1)

theorem slot_frameSlots (start : Bool) (b : Byte) (stop : Bool) {k : Nat} (hk : k < 10) :
    slot (frameSlots start b stop) k = frameLevel start b stop k := by
  have hbits : frameSlots start b stop =
      BitVec.ofFnLE fun i : Fin 10 => frameLevel start b stop (9 - i.val) := by
    apply BitVec.eq_of_toNat_eq
    have hlt := Nat.ofBits_lt_two_pow fun i : Fin 10 => frameLevel start b stop (9 - i.val)
    have hweight : ∀ l i, slotBit l i = 2 ^ (9 - i) * l.toNat := by
      intro l i
      cases l <;> simp [slotBit]
    rw [BitVec.toNat_ofFnLE, frameSlots, BitVec.toNat_ofNat]
    simp only [hweight, Nat.ofBits_succ, Nat.ofBits_zero, Function.comp_apply, Fin.val_succ, Fin.val_zero,
      zero_add, Nat.reduceAdd, Nat.reduceSub, Nat.reducePow, frameLevel, Nat.reduceEqDiff, if_true, if_false,
      OfNat.ofNat_ne_zero, one_ne_zero, Nat.sub_zero] at hlt ⊢
    omega
  rw [slot, hbits, BitVec.getLsbD_ofFnLE, dif_pos (by omega), Nat.sub_sub_self (by omega)]

/-- The byte a frame is made of is the byte packed from it. -/
theorem packData_frameSlots (start : Bool) (b : Byte) (stop : Bool) :
    packData (frameSlots start b stop) = b := by
  refine BitVec.eq_of_getLsbD_eq fun i hi => ?_
  rw [getLsbD_packData _ hi, slot_frameSlots _ _ _ (by omega)]
  simp [frameLevel, show i ≠ 8 by omega]

/-- A frame word is the frame of its own byte between its own start and stop levels. -/
theorem frameSlots_packData (w : Slots) : frameSlots (slot w 0) (packData w) (slot w 9) = w := by
  refine slots_ext fun k hk => ?_
  rw [slot_frameSlots _ _ _ hk]
  unfold frameLevel
  split_ifs with h0 h9
  · rw [h0]
  · rw [h9]
  · rw [getLsbD_packData w (by omega), Nat.sub_add_cancel (by omega)]

/-! ### The fields of a unit -/

/-- Two bytes hold a frame word only as its low and its high byte. -/
theorem slotsOf_eq_ok_iff {lo hi : Byte} {w : Slots} :
    slotsOf lo hi = .ok w ↔ lo = slotsLow w ∧ hi = slotsHigh w := by
  have hlow : (slotsLow w).toNat = w.toNat % 256 := BitVec.toNat_setWidth ..
  have hhigh : (slotsHigh w).toNat = w.toNat / 256 := by
    have hw := w.isLt
    simp only [slotsHigh, BitVec.toNat_setWidth, BitVec.extractLsb'_toNat, Nat.shiftRight_eq_div_pow]
    omega
  have hw := w.isLt
  have hlo := lo.isLt
  unfold slotsOf
  split
  · simp only [Except.ok.injEq, ← BitVec.toNat_inj, BitVec.toNat_ofNat, hlow, hhigh]
    omega
  · simp only [reduceCtorEq, false_iff, ← BitVec.toNat_inj, hlow, hhigh]
    omega

theorem ringOf_eq_some_iff {b : Byte} {r : RingId} : ringOf b = some r ↔ b = ringByte r := by
  unfold ringOf
  cases r <;> split_ifs <;> simp_all [ringByte]

theorem actionOperand_eq_some_iff {b : Byte} {a : Action} :
    actionOperand b = some a ↔ b = actionOperandByte a := by
  unfold actionOperand
  cases a <;> split_ifs <;> simp_all [actionOperandByte]

@[simp] theorem actionCode_actionByte (a h : Nibble) : actionCode (actionByte a h) = a :=
  BitVec.extractLsb'_append_eq_left

@[simp] theorem actionChannel_actionByte (a h : Nibble) : actionChannel (actionByte a h) = h :=
  BitVec.extractLsb'_append_eq_right

@[simp] theorem actionByte_fields (b : Byte) : actionByte (actionCode b) (actionChannel b) = b :=
  BitVec.extractLsb'_append_extractLsb'

theorem isNoteCode_eq_false_iff (a : Nibble) : isNoteCode a = false ↔ a ≠ 9#4 ∧ a ≠ 8#4 := by
  simp [isNoteCode]

/-- A MIDI channel is four bits of its operand byte, the others zero (R205). -/
theorem midiChannel_iff {b : Byte} {h : Nibble} :
    (b.toNat < 16 ∧ b.extractLsb' 0 4 = h) ↔ b = h.setWidth 8 := by
  have hh := h.isLt
  simp only [← BitVec.toNat_inj, BitVec.extractLsb'_toNat, BitVec.toNat_setWidth]
  omega

/-- Four operand bytes hold an event only as its fields, and only if the event is well-formed (R205). -/
theorem eventOf_eq_ok_iff {c : Config} {act chan key vel : Byte} {e : NoteEvent} :
    eventOf c act chan key vel = .ok e ↔
      (act = actionOperandByte e.action ∧ chan = e.channel.setWidth 8 ∧ key = e.key ∧ vel = e.velocity) ∧
        e.wf c = true := by
  obtain ⟨a, h, k, v⟩ := e
  unfold eventOf
  rw [← actionOperand_eq_some_iff, ← midiChannel_iff]
  cases hact : actionOperand act with
  | none => simp
  | some a' =>
    by_cases hchan : chan.toNat < 16
    · simp only [hchan, if_true, true_and, Option.some.injEq]
      split <;> rename_i hwf
      · simp only [Except.ok.injEq, NoteEvent.mk.injEq]
        constructor
        · rintro ⟨rfl, rfl, rfl, rfl⟩
          exact ⟨⟨rfl, rfl, rfl, rfl⟩, hwf⟩
        · exact And.left
      · simp only [reduceCtorEq, false_iff]
        rintro ⟨⟨rfl, rfl, rfl, rfl⟩, h'⟩
        exact hwf h'
    · simp [hchan]

theorem onlyOperands_eq_ok_iff {rest : List Byte} {i j : Instr} :
    onlyOperands rest i = .ok j ↔ (∀ b ∈ rest, b = 0#8) ∧ i = j := by
  have hzero : rest.all (· == 0#8) = true ↔ ∀ b ∈ rest, b = 0#8 := by simp
  rw [← hzero]
  unfold onlyOperands
  split <;> rename_i h <;> simp [h]

/-! ### From the unit to the instruction (R90 to R104) -/

/-- What reading unit `u` as `i` in `x` means: `i` is a well-formed row of the framer state, and `u` is
how it is written, unless `u` is the ready byte met by the framer. -/
structure Reads (x : DecodeContext) (u : WireUnit) (i : Instr) : Prop where
  wf : i.wf x.cfg = true
  inContext : i.inContext x.pf = true
  written : u.format ≠ .framed8 ∨ i ≠ .rdy → encode x.cfg i = u

section

variable {x : DecodeContext}

theorem Reads.of_onlyOperands {rest : List Byte} {u : WireUnit} {i j : Instr}
    (h : onlyOperands rest i = .ok j) (hwf : i.wf x.cfg = true) (hctx : i.inContext x.pf = true)
    (hwritten : (∀ b ∈ rest, b = 0#8) → encode x.cfg i = u) : Reads x u j := by
  obtain ⟨hzero, rfl⟩ := onlyOperands_eq_ok_iff.1 h
  exact ⟨hwf, hctx, fun _ => hwritten hzero⟩

/-- A label is written with its op id, its operands and zeros (R104). -/
theorem reads_label {op w a b c : Byte} {i : Instr} (h : decodeLabel x.cfg op w a b c = .ok i) :
    Reads x (labelUnit op w a b c) i := by
  have hop : ∀ {k : Nat}, op.toNat = k → op = BitVec.ofNat 8 k := fun h => h ▸ by simp
  unfold decodeLabel at h
  split at h <;> rename_i heq
  case h_24 => cases h
  all_goals obtain rfl := hop heq
  -- the ring buffer operand (R131)
  case h_1 | h_2 | h_3 =>
    split at h <;> rename_i hr
    · obtain rfl := ringOf_eq_some_iff.1 hr
      exact .of_onlyOperands h rfl rfl (by simp +contextual [encode, labelUnit])
    · cases h
  -- the sample number (R187)
  case h_16 =>
    split at h
    · exact .of_onlyOperands h rfl rfl (by simp +contextual [encode, labelUnit])
    · cases h
  -- the ten slots (R192)
  case h_18 =>
    split at h <;> rename_i hw
    · obtain ⟨rfl, rfl⟩ := slotsOf_eq_ok_iff.1 hw
      exact .of_onlyOperands h rfl rfl (by simp +contextual [encode, labelUnit])
    · cases h
  -- the event (R205)
  case h_20 =>
    split at h <;> rename_i he
    · obtain ⟨⟨rfl, rfl, rfl, rfl⟩, hwf⟩ := eventOf_eq_ok_iff.1 he
      obtain rfl := Except.ok.inj h
      exact ⟨hwf, rfl, fun _ => rfl⟩
    · cases h
  -- the channel (R61)
  case h_22 =>
    split at h <;> rename_i hch
    · exact .of_onlyOperands h (by simpa [Instr.wf] using hch) rfl
        (by simp +contextual [encode, labelUnit])
    · cases h
  -- operands that any byte is, or none
  all_goals exact .of_onlyOperands h rfl rfl (by simp +contextual [encode, labelUnit])

/-- The decode map of R103. -/
theorem reads_framed (b : Byte) : Reads x ⟨.framed8, [b]⟩ (decodeFramed x b) := by
  unfold decodeFramed
  split <;> rename_i hp
  · split <;> rename_i hb
    · exact ⟨rfl, rfl, by simp⟩
    · exact ⟨by simpa [Instr.wf] using hb, by simp [Instr.inContext, hp], fun _ => rfl⟩
  · split <;> rename_i hb
    · exact ⟨rfl, by simp [Instr.inContext, hp], fun _ => by rw [encode, hb]⟩
    · exact ⟨by simpa [Instr.wf] using hb, by simp [Instr.inContext, hp], fun _ => rfl⟩
  · exact ⟨rfl, by simp [Instr.inContext, hp], fun _ => rfl⟩
  · exact ⟨rfl, by simp [Instr.inContext, hp], fun _ => rfl⟩

/-- A frame is read by the byte it carries (R92, R190). -/
theorem reads_slots (w : Slots) :
    Reads x ⟨.ser10, [slotsLow w, slotsHigh w]⟩ (decodeSlots x.cfg w) := by
  unfold decodeSlots
  split <;> rename_i hk
  · exact ⟨rfl, rfl, fun _ => by simp only [encode, ← hk, frameSlots_packData]⟩
  · exact ⟨by simpa [Instr.wf] using hk, rfl, fun _ => rfl⟩

theorem reads_packet {s n ch : Byte} {i : Instr} (h : decodePacket x.cfg s n ch = .ok i) :
    Reads x ⟨.pkt24, [s, n, ch]⟩ i := by
  unfold decodePacket at h
  split_ifs at h with hs hn <;> obtain rfl := Except.ok.inj h <;> subst hs
  · exact ⟨rfl, rfl, fun _ => by rw [encode, hn]⟩
  · exact ⟨by simpa [Instr.wf] using hn, rfl, fun _ => rfl⟩

theorem reads_event (a k v : Byte) : Reads x ⟨.evt24, [a, k, v]⟩ (decodeEvent a k v) := by
  have hfields := actionByte_fields a
  unfold decodeEvent
  split_ifs with h9 h8
  · exact ⟨rfl, rfl, fun _ => by rw [encode, ← h9, hfields]⟩
  · exact ⟨rfl, rfl, fun _ => by rw [encode, ← h8, hfields]⟩
  · have hother := (isNoteCode_eq_false_iff _).2 ⟨h9, h8⟩
    exact ⟨by simp [Instr.wf, hother], rfl, fun _ => by rw [encode, hfields]⟩

/-- Whatever decodes is read as the decoder of its format says. -/
theorem reads_of_decode {u : WireUnit} {i : Instr} (h : decode x u = .ok i) : Reads x u i := by
  obtain ⟨f, bs⟩ := u
  unfold decode at h
  split at h <;> rename_i hf hbs
  case h_9 => cases h
  all_goals
    cases hf
    cases hbs
  · exact reads_label h
  · obtain rfl := Except.ok.inj h
    exact ⟨rfl, rfl, fun _ => rfl⟩
  · obtain rfl := Except.ok.inj h
    exact reads_framed _
  · split at h <;> rename_i hw
    · obtain ⟨rfl, rfl⟩ := slotsOf_eq_ok_iff.1 hw
      obtain rfl := Except.ok.inj h
      exact reads_slots _
    · cases h
  · exact reads_packet h
  · split_ifs at h with hb
    obtain rfl := Except.ok.inj h
    exact ⟨rfl, rfl, fun _ => by rw [encode, hb]⟩
  · obtain rfl := Except.ok.inj h
    exact reads_event _ _ _
  · split_ifs at h with ha
    obtain rfl := Except.ok.inj h
    exact ⟨by simp [Instr.wf, ha], rfl, fun _ => by rw [encode, actionByte_fields]⟩

end

/-! ### From the instruction to the unit -/

section

variable {c : Config} {p : PfState}

theorem decode_sbdSample (k : Fin 10) :
    decode ⟨c, p⟩ (encode c (.sbdSample k)) = .ok (.sbdSample k) := by
  have hk : (BitVec.ofNat 8 k.val).toNat = k.val := Nat.mod_eq_of_lt (by omega)
  simp [encode, labelUnit, decode, decodeLabel, onlyOperands, hk]

theorem decode_sbdFrame (w : Slots) : decode ⟨c, p⟩ (encode c (.sbdFrame w)) = .ok (.sbdFrame w) := by
  simp [encode, labelUnit, decode, decodeLabel, onlyOperands, slotsOf_eq_ok_iff.2 ⟨rfl, rfl⟩]

theorem decode_vaEvent {e : NoteEvent} (h : e.wf c = true) :
    decode ⟨c, p⟩ (encode c (.vaEvent e)) = .ok (.vaEvent e) := by
  simp [encode, labelUnit, decode, decodeLabel, eventOf_eq_ok_iff.2 ⟨⟨rfl, rfl, rfl, rfl⟩, h⟩]

theorem decode_serData {w : Slots} (h : packData w ≠ c.keepaliveByte) :
    decode ⟨c, p⟩ (encode c (.serData w)) = .ok (.serData w) := by
  simp only [encode, decode, slotsOf_eq_ok_iff.2 ⟨rfl, rfl⟩, decodeSlots, if_neg h]

theorem decode_serKeepalive (start stop : Bool) :
    decode ⟨c, p⟩ (encode c (.serKeepalive start stop)) = .ok (.serKeepalive start stop) := by
  simp [encode, decode, slotsOf_eq_ok_iff.2 ⟨rfl, rfl⟩, decodeSlots, packData_frameSlots,
    slot_frameSlots, frameLevel]

theorem decode_event (a h : Nibble) (k v : Byte) :
    decode ⟨c, p⟩ ⟨.evt24, [actionByte a h, k, v]⟩ = .ok
      (if a = 9#4 then .evtNoteon h k v else if a = 8#4 then .evtNoteoff h k v
      else .evtOther a h k v) := by
  simp only [decode, decodeEvent, actionCode_actionByte, actionChannel_actionByte]

/-- What is written well-formed is read back, in the framer state of its row. -/
theorem decode_encode {i : Instr} (hwf : i.wf c = true) (hctx : i.inContext p = true) :
    decode ⟨c, p⟩ (encode c i) = .ok i := by
  cases i with
  | rbEnq r b | rbDeq r | rbEmpty r => cases r <;> rfl
  | busWrite b | buswDrive b | busSendpkt f1 f2 | eaByte b | ssPacket f1 f2 => rfl
  | buswAssert | buswDeassert | busSendready | busrEdge | busrService | busHasdata | busRead | pfStep
  | sbdStart | sbdFinish | ssLoop => rfl
  | sbdSample k => exact decode_sbdSample k
  | sbdFrame w => exact decode_sbdFrame w
  | vaEvent e => exact decode_vaEvent hwf
  | ssCheck ch => exact if_pos (of_decide_eq_true hwf)
  | byte b => rfl
  | serData w => exact decode_serData (by simpa [Instr.wf] using hwf)
  | serKeepalive start stop => exact decode_serKeepalive start stop
  | pktOn n ch =>
    have hn : n ≠ c.offSentinel := by simpa [Instr.wf] using hwf
    simp [encode, decode, decodePacket, hn]
  | pktOff ch => simp [encode, decode, decodePacket]
  | rdy => simp [encode, decode]
  | busbytePreReady b =>
    have hb : b ≠ c.readyByte := by simpa [Instr.wf] using hwf
    obtain rfl : p = .waitReady := by simpa [Instr.inContext] using hctx
    simp [encode, decode, decodeFramed, hb]
  | busbyteStart =>
    obtain rfl : p = .idle := by simpa [Instr.inContext] using hctx
    simp [encode, decode, decodeFramed]
  | busbyteUnsync b =>
    have hb : b ≠ c.startSentinel := by simpa [Instr.wf] using hwf
    obtain rfl : p = .idle := by simpa [Instr.inContext] using hctx
    simp [encode, decode, decodeFramed, hb]
  | busbyteField1 b =>
    obtain rfl : p = .gotStart := by simpa [Instr.inContext] using hctx
    rfl
  | busbyteField2 b =>
    obtain rfl : p = .gotF1 := by simpa [Instr.inContext] using hctx
    rfl
  | evtNoteon h k v => exact decode_event 9#4 h k v
  | evtNoteoff h k v => exact decode_event 8#4 h k v
  | evtOther a h k v =>
    obtain ⟨h9, h8⟩ := (isNoteCode_eq_false_iff a).1 (by simpa [Instr.wf] using hwf)
    rw [encode, decode_event, if_neg h9, if_neg h8]
  | evtSeqdiscard a h =>
    have ha : isNoteCode a = false := by simpa [Instr.wf] using hwf
    simp [encode, decode, ha]

end

end Sys2Proof

open Sys2Proof Sys2Proof.Machine

/-- Settles O1: instruction by instruction. -/
theorem decodeOfEncode : Obligations.DecodeOfEncode := by
  unfold Obligations.DecodeOfEncode
  exact fun c p i hwf hctx => decode_encode hwf hctx

/-- Settles O2: every format reads a unit as the instruction written so. -/
theorem encodeOfDecode : Obligations.EncodeOfDecode := by
  unfold Obligations.EncodeOfDecode
  exact fun x u i h => (reads_of_decode h).written

/-- Settles O3: every format reads well-formed instructions only, and bus bytes by the framer state. -/
theorem decodedIsWellFormed : Obligations.DecodedIsWellFormed := by
  unfold Obligations.DecodedIsWellFormed
  exact fun x u i h => ⟨(reads_of_decode h).wf, (reads_of_decode h).inContext⟩

/-- Settles O4: the decoder evaluates to what each word stands for. -/
theorem wordsFromTheEncodingDecode : Obligations.WordsFromTheEncodingDecode := by
  unfold Obligations.WordsFromTheEncodingDecode
  decide

/-- Settles O45: the ten slots of a frame are its start level, the byte's bits and its stop level. -/
theorem frameCarriesItsByte : Obligations.FrameCarriesItsByte := by
  unfold Obligations.FrameCarriesItsByte
  intro start stop b
  refine ⟨packData_frameSlots start b stop, slot_frameSlots _ _ _ (by omega),
    slot_frameSlots _ _ _ (by omega), fun k => ?_⟩
  rw [← getLsbD_packData _ k.isLt, packData_frameSlots]
end

section
/-! PROOF. The framer and the assembler byte by byte (R103, R161 to R167, R206 to R210), and the packet and
event rows as their bytes given in turn. -/

namespace Sys2Proof.Machine

open Sys2Proof

/-! ### Outcomes -/

/-- Rounds that each answer a next state, from any state in which `P` holds, do so one after the other. -/
theorem exists_next_forEach {α : Type} {P : State → Prop} {f : α → State → Out}
    (hf : ∀ a s, P s → ∃ t, f a s = .next t ∧ P t) (l : List α) {s : State} (hs : P s) :
    ∃ t, forEach f l s = .next t ∧ P t := by
  induction l generalizing s with
  | nil => exact ⟨s, rfl, hs⟩
  | cons a rest ih =>
    obtain ⟨t, ht, hP⟩ := hf a s hs
    obtain ⟨u, hu⟩ := ih hP
    exact ⟨u, by rwa [forEach, ht]⟩

/-! ### The framer -/

/-- The framer meets a byte as the table of R103 says, row by row. -/
theorem frameByte_eq_afterFramed (v : Byte) (s : State) : frameByte v s = afterFramed v s := by
  rcases frameByte_cases v s with
    ⟨hp, hv, h⟩ | ⟨hp, hv, h⟩ | ⟨hp, hv, h⟩ | ⟨hp, hv, h⟩ | ⟨hp, h⟩ | ⟨hp, h⟩ <;> rw [h, afterFramed]
  · rw [if_pos ⟨hp, hv⟩]
  · simp [hp, hv]
  · simp [hp, hv]
  · simp [hp, hv]
  · simp [hp]
  · simp [hp, State.emit]

theorem stepFramer_eq_afterFramed (v : Byte) (s : State) : stepFramer v s =
    .next ((afterFramed v s).2.respond .client (.optPacket (afterFramed v s).1)) := by
  rw [← frameByte_eq_afterFramed]
  rfl

@[simp] theorem packets_append (l l' : List Event) : packets (l ++ l') = packets l ++ packets l' :=
  List.filterMap_append ..

/-- One byte met by the framer is one round of the fold of R167: the packet it gives, if any, comes first. -/
theorem frameFold_cons (v : Byte) (vs : List Byte) (s : State) :
    frameFold s.cfg (s.pfState, s.pfF1) (v :: vs) =
      ((frameByte v s).1.toList ++
        (frameFold s.cfg ((frameByte v s).2.pfState, (frameByte v s).2.pfF1) vs).1,
      (frameFold s.cfg ((frameByte v s).2.pfState, (frameByte v s).2.pfF1) vs).2) := by
  rcases frameByte_cases v s with
    ⟨hp, hv, h⟩ | ⟨hp, hv, h⟩ | ⟨hp, hv, h⟩ | ⟨hp, hv, h⟩ | ⟨hp, h⟩ | ⟨hp, h⟩ <;> rw [h, hp]
  · simp [frameFold, hv]
  · simp [frameFold, hv, hp]
  · simp [frameFold, hv]
  · simp [frameFold, hv, hp]
  · simp [frameFold]
  · simp [frameFold]

/-- What one byte changes at the framer: its state and the trace, which gains the packet it gives. -/
theorem frameByte_frame (v : Byte) (s : State) :
    packets (frameByte v s).2.trace = packets s.trace ++ (frameByte v s).1.toList ∧
    (frameByte v s).2 = { s with
      pfState := (frameByte v s).2.pfState
      pfF1 := (frameByte v s).2.pfF1
      trace := (frameByte v s).2.trace } := by
  rcases frameByte_cases v s with ⟨-, -, h⟩ | ⟨-, -, h⟩ | ⟨-, -, h⟩ | ⟨-, -, h⟩ | ⟨-, h⟩ | ⟨-, h⟩ <;>
    rw [h] <;> exact ⟨by simp [packets], rfl⟩

/-- The bytes met one after the other are the fold of R167 over them. -/
theorem forEach_stepFramer_fold (bs : List Byte) (s : State) :
    ∃ t, forEach stepFramer bs s = .next t ∧
      packets t.trace = packets s.trace ++ (frameFold s.cfg (s.pfState, s.pfF1) bs).1 ∧
      (t.pfState, t.pfF1) = (frameFold s.cfg (s.pfState, s.pfF1) bs).2 ∧
      t = { s with
        pfState := t.pfState, pfF1 := t.pfF1, trace := t.trace, clientResp := t.clientResp } := by
  induction bs generalizing s with
  | nil => exact ⟨s, rfl, by simp [frameFold], rfl, rfl⟩
  | cons v vs ih =>
    obtain ⟨hpackets, hframe⟩ := frameByte_frame v s
    obtain ⟨t, ht, htrace, hstate, htframe⟩ :=
      ih ((frameByte v s).2.respond .client (.optPacket (frameByte v s).1))
    have hcfg : (frameByte v s).2.cfg = s.cfg := (advances_frameByte v s).cfg
    simp only [State.respond_cfg, State.respond_trace, State.respond_pfState, State.respond_pfF1, hcfg]
      at htrace hstate
    refine ⟨t, ht, ?_, ?_, ?_⟩
    · rw [htrace, hpackets, frameFold_cons, List.append_assoc]
    · rw [hstate, frameFold_cons]
    · rw [htframe, hframe]
      rfl

/-! ### The assembler -/

/-- An action byte that is not discarded opens a frame (R207, R208). -/
theorem assembleStep_action {a : Nibble} {s : State} (hs : s.eaState = .awaitingAction)
    (hopen : s.cfg.mode = .live ∨ isNoteCode a = true) (h : Nibble) :
    assembleStep (actionByte a h) s = .next { s with
      eaAction := actionOf a, eaChannel := h, eaState := .awaitingKey, clientResp := .optEvent none } := by
  rcases hopen with hm | hn
  · simp [assembleStep, assemble, openFrame, hs, hm, State.respond]
  · cases hm : s.cfg.mode <;> simp [assembleStep, assemble, openFrame, hs, hm, hn, State.respond]

/-- The second byte is the key (R209). -/
theorem assembleStep_key {s : State} (hs : s.eaState = .awaitingKey) (k : Byte) :
    assembleStep k s = .next { s with
      eaKey := eventField s k, eaState := .awaitingVelocity, clientResp := .optEvent none } := by
  simp only [assembleStep, assemble, hs, State.respond]

/-- The third byte is the velocity, and the event is emitted (R210). -/
theorem assembleStep_velocity {s : State} (hs : s.eaState = .awaitingVelocity) (v : Byte) :
    assembleStep v s = .next { s.emit (.event ⟨s.eaAction, s.eaChannel, s.eaKey, eventField s v⟩) with
      eaState := .awaitingAction
      clientResp := .optEvent (some ⟨s.eaAction, s.eaChannel, s.eaKey, eventField s v⟩) } := by
  simp only [assembleStep, assemble, hs, State.respond]

/-- The three bytes of a frame that opens are its event (R207 to R210). -/
theorem forEach_assembleStep_event {a : Nibble} {s : State} (hs : s.eaState = .awaitingAction)
    (hopen : s.cfg.mode = .live ∨ isNoteCode a = true) (h : Nibble) (k v : Byte) :
    let field := eventField { s with eaAction := actionOf a }
    let e : NoteEvent := ⟨actionOf a, h, field k, field v⟩
    forEach assembleStep [actionByte a h, k, v] s = .next { s.emit (.event e) with
      eaAction := actionOf a, eaChannel := h, eaKey := field k, clientResp := .optEvent (some e) } := by
  rw [forEach, assembleStep_action hs hopen, andThen, forEach, assembleStep_key rfl, andThen, forEach,
    assembleStep_velocity rfl, andThen, forEach, ← hs]
  rfl

/-- In sequenced mode a byte with no note code is discarded (R208). -/
theorem assembleStep_discard {a : Nibble} {s : State} (hs : s.eaState = .awaitingAction)
    (hm : s.cfg.mode = .sequenced) (ha : isNoteCode a = false) (h : Nibble) :
    assembleStep (actionByte a h) s =
      .next { s.drop (.seqFrame (actionByte a h)) with clientResp := .optEvent none } := by
  simp [assembleStep, assemble, hs, hm, ha, State.respond]

/-! ### The packet rows -/

/-- SS.PACKET has no condition, and a sound state all its channels (R241, R33). -/
theorem exists_next_intake (f1 f2 : Byte) {s : State} (hs : s.InBounds) :
    ∃ t, intake f1 f2 s = .next t ∧ t.InBounds := by
  have hsafe := safe_intake f1 f2 s
  cases hi : intake f1 f2 s with
  | next t =>
    rw [hi] at hsafe
    exact ⟨t, rfl, hsafe.bounds hs⟩
  | fault x =>
    rw [hi] at hsafe
    exact absurd hs hsafe
  | refused x =>
    unfold intake at hi
    split_ifs at hi
    · split at hi <;> cases hi
    · split at hi
      · cases hi
      · split at hi <;> cases hi

theorem exists_next_frameAndIntake (v : Byte) (s : State) (hs : s.InBounds) :
    ∃ t, frameAndIntake v s = .next t ∧ t.InBounds := by
  have hframe := (advances_frameByte v s).bounds hs
  unfold frameAndIntake
  split <;> rename_i heq <;> rw [heq] at hframe
  · exact exists_next_intake _ _ hframe
  · exact ⟨_, rfl, hframe⟩

/-- Three bytes met in `IDLE`, the start sentinel the first, are a packet given to SS.PACKET (R163 to
R166). -/
theorem forEach_frameAndIntake_packet {s : State} (hp : s.pfState = .idle) (n c : Byte) :
    forEach frameAndIntake [s.cfg.startSentinel, n, c] s =
      intake n c (State.emit { s with pfF1 := n } (.packet n c)) := by
  have hstart : frameAndIntake s.cfg.startSentinel s = .next { s with pfState := .gotStart } := by
    simp [frameAndIntake, frameByte, hp]
  have hfield1 : frameAndIntake n { s with pfState := .gotStart } =
      .next { s with pfState := .gotF1, pfF1 := n } := rfl
  have hfield2 : frameAndIntake c { s with pfState := .gotF1, pfF1 := n } =
      intake n c (State.emit { s with pfState := .idle, pfF1 := n } (.packet n c)) := rfl
  rw [forEach, hstart, andThen, forEach, hfield1, andThen, forEach, hfield2, ← hp]
  cases intake n c (State.emit { s with pfF1 := n } (.packet n c)) <;> rfl

end Sys2Proof.Machine

open Sys2Proof Sys2Proof.Machine

/-- Settles O38: the dequeue is that of R122, the framer's step that of R103. -/
theorem framerStepFollowsTheDecodeMap : Obligations.FramerStepFollowsTheDecodeMap := by
  unfold Obligations.FramerStepFollowsTheDecodeMap
  intro s hhead
  have hdeq : dequeue .bus s = .ok (afterDequeue .bus s) := dequeue_eq_afterDequeue (r := .bus) hhead
  rw [exec, execPfStep, hdeq]
  obtain ⟨x, t⟩ := afterDequeue .bus s
  cases x with
  | none => rfl
  | some v => exact stepFramer_eq_afterFramed v t

/-- Settles O39: every row is its byte met by the framer. -/
theorem framedRowsFollowTheDecodeMap : Obligations.FramedRowsFollowTheDecodeMap := by
  unfold Obligations.FramedRowsFollowTheDecodeMap
  intro b i s hi
  have hexec : exec i s = stepFramer b s := by
    rcases hi with ⟨rfl, rfl⟩ | rfl | ⟨rfl, rfl⟩ | rfl | rfl | rfl <;> rfl
  rw [hexec, stepFramer_eq_afterFramed]

/-- Settles O40: by induction on the bytes. -/
theorem framerIsTheFoldOfTheDecodeMap : Obligations.FramerIsTheFoldOfTheDecodeMap := by
  unfold Obligations.FramerIsTheFoldOfTheDecodeMap
  exact forEach_stepFramer_fold

/-- Settles O49: the rows are their bytes by definition, no byte stops, and in the two modes the bytes
fill a frame or are discarded. -/
theorem eventRowsAssemble : Obligations.EventRowsAssemble := by
  unfold Obligations.EventRowsAssemble
  intro a h k v s h9 h8
  have hnote : isNoteCode a = false := (isNoteCode_eq_false_iff a).2 ⟨h9, h8⟩
  have hother : actionOf a = .other := by simp [actionOf, h9, h8]
  have hbytes : ∀ l, ∃ t, forEach assembleStep l s = .next t := fun l => by
    obtain ⟨t, ht, -⟩ := exists_next_forEach (P := fun _ => True)
      (fun b u _ => ⟨_, (rfl : assembleStep b u = _), trivial⟩) l (s := s) trivial
    exact ⟨t, ht⟩
  refine ⟨⟨rfl, rfl, rfl, rfl⟩, ?_, fun hs => ⟨?_, ?_, fun hm => ?_, fun hm => ?_⟩⟩
  · simp only [List.mem_cons, List.not_mem_nil, or_false]
    rintro i (rfl | rfl | rfl | rfl)
    · exact hbytes _
    · exact hbytes _
    · exact hbytes _
    · exact ⟨_, rfl⟩
  · exact forEach_assembleStep_event hs (.inr rfl) h k v
  · exact forEach_assembleStep_event hs (.inr rfl) h k v
  · have hevent := forEach_assembleStep_event hs (.inl hm) (a := a) h k v
    rw [hother] at hevent
    exact hevent
  · exact assembleStep_discard hs hm hnote h

/-- Settles O59: no byte of a packet stops in a sound state, and in `IDLE` the three make the packet. -/
theorem packetRowsReachTheScheduler : Obligations.PacketRowsReachTheScheduler := by
  unfold Obligations.PacketRowsReachTheScheduler
  intro n c s hinv hcfg
  have hbytes : ∀ l, ∃ t, andThen (forEach frameAndIntake l s)
      (fun s' => .next (s'.respond .client .nothing)) = .next t := fun l => by
    obtain ⟨t, ht, -⟩ := exists_next_forEach exists_next_frameAndIntake l (hinv.inBounds hcfg)
    exact ⟨_, by rw [ht, andThen]⟩
  refine ⟨?_, fun hp => ⟨?_, ?_⟩⟩
  · obtain ⟨t, ht⟩ := hbytes [s.cfg.startSentinel, n, c]
    obtain ⟨u, hu⟩ := hbytes [s.cfg.startSentinel, s.cfg.offSentinel, c]
    exact ⟨t, u, ht, hu⟩
  · simp only [exec, execPktOn, execSsPacket, forEach_frameAndIntake_packet hp]
  · simp only [exec, execPktOff, execSsPacket, forEach_frameAndIntake_packet hp]
end

section
/-! PROOF. Whole transfers on the bus (R91, R141, R146, R147): the client's response is no part of them, the
reader's service in the hold is one RB.ENQ on `RB_BUS`, and what either leaves alone. -/

namespace Sys2Proof.Machine

open Sys2Proof

/-! ### The client's response is no part of a write -/

theorem andThen_assoc (o : Out) (f g : State → Out) :
    andThen (andThen o f) g = andThen o fun s => andThen (f s) g := by
  cases o <;> rfl

/-- `f` neither reads nor writes the client's response. -/
def IgnoresResponse (f : State → Out) : Prop :=
  ∀ s x, f (s.respond .client x) = andThen (f s) fun t => .next (t.respond .client x)

theorem IgnoresResponse.andThen {f g : State → Out} (hf : IgnoresResponse f) (hg : IgnoresResponse g) :
    IgnoresResponse fun s => Machine.andThen (f s) g := by
  intro s x
  dsimp only
  rw [hf s x, andThen_assoc, andThen_assoc]
  exact congrArg _ (funext fun t => hg t x)

theorem readHead_respond (r : RingId) (s : State) (x : Response) :
    readHead r (s.respond .client x) = ((readHead r s).1, (readHead r s).2.respond .client x) := by
  unfold readHead
  rw [State.respond_cfg]
  cases s.cfg.rbView with
  | immediate => cases r <;> rfl
  | stale => cases r <;> rfl

theorem writeCell_respond (r : RingId) (i : Nat) (b : Byte) (s : State) (x : Response) :
    writeCell r i b (s.respond .client x) = (writeCell r i b s).map (·.respond .client x) := by
  have hslots : (s.respond .client x).slotsOf r = s.slotsOf r := rfl
  unfold writeCell
  rw [hslots]
  split
  · cases r <;> rfl
  · rfl

theorem waitBus_respond (s : State) (us : Nat) (x : Response) :
    (s.respond .client x).waitBus us = (s.waitBus us).respond .client x := by
  unfold State.waitBus State.passDelay
  cases hd : s.delays <;> simp [State.respond, hd]

theorem ignoresResponse_drive (b : Byte) : IgnoresResponse (drive b) := by
  intro s x
  simp only [drive, State.respond_busDriver, State.respond_clk, State.respond_buswPhase,
    State.respond_cfg, waitBus_respond]
  split_ifs <;> rfl

theorem edgeIfListening_respond (s : State) (x : Response) :
    edgeIfListening (s.respond .client x) = (edgeIfListening s).respond .client x := by
  simp only [edgeIfListening, clockEdge, State.respond_cfg, State.respond_irqPending]
  split_ifs <;> rfl

theorem ignoresResponse_assertClock : IgnoresResponse assertClock := by
  intro s x
  simp only [assertClock, State.respond_buswPhase, State.respond_cfg, State.respond_d, waitBus_respond]
  split_ifs
  · exact congrArg Host.Outcome.next (edgeIfListening_respond (State.emit { s.waitBus s.cfg.tSetup with
      clk := true, buswPhase := .asserted } (.busByte s.d)) x)
  · rfl

theorem ignoresResponse_deassertClock : IgnoresResponse deassertClock := by
  intro s x
  simp only [deassertClock, State.respond_buswPhase, State.respond_cfg, waitBus_respond]
  split_ifs <;> rfl

theorem ignoresResponse_enqMicro : IgnoresResponse (enqMicro .bus) := by
  intro s x
  have hop : (s.respond .client x).enqOp .bus = s.enqOp .bus := rfl
  have hslots : (s.respond .client x).slotsOf .bus = s.slotsOf .bus := rfl
  unfold enqMicro
  rw [hop]
  cases s.enqOp .bus with
  | none => rfl
  | some op =>
    obtain ⟨b, p, use⟩ := op
    cases p with
    | m1 => rfl
    | m2 t => simp only [readHead_respond]; rfl
    | m3 t h =>
      simp only [hslots]
      split
      · cases use <;> rfl
      · rfl
    | m4 t n =>
      simp only [writeCell_respond]
      cases writeCell .bus t b s <;> rfl
    | m5 n => cases use <;> rfl

theorem ignoresResponse_completeEnq : IgnoresResponse (completeEnq .bus) := by
  have hmicros : ∀ k, IgnoresResponse (enqMicros .bus k) := by
    intro k
    induction k with
    | zero => exact fun s x => rfl
    | succ k ih =>
      intro s x
      unfold enqMicros
      have hop : (s.respond .client x).enqOp .bus = s.enqOp .bus := rfl
      rw [hop]
      split
      · exact (ignoresResponse_enqMicro.andThen ih) s x
      · rfl
  exact hmicros 5

theorem ignoresResponse_enqueueIgnoring (b : Byte) : IgnoresResponse (enqueueIgnoring .bus b) := by
  intro s x
  have hslots : (s.respond .client x).slotsOf .bus = s.slotsOf .bus := rfl
  simp only [enqueueIgnoring, enqueue, readHead_respond, writeCell_respond, State.respond_ring, hslots]
  split_ifs
  · rfl
  · cases writeCell .bus (s.ring .bus).tail b (readHead .bus s).2 <;> rfl

theorem ignoresResponse_execBusrService : IgnoresResponse execBusrService := by
  have hservice : IgnoresResponse serviceBus := by
    intro s x
    simp only [serviceBus, State.respond_irqPending]
    split_ifs
    · exact ignoresResponse_enqueueIgnoring s.d (sampleBus s).2 x
    · rfl
  exact hservice.andThen fun _ _ => rfl

theorem ignoresResponse_serviceInHold : IgnoresResponse serviceInHold := by
  intro s x
  unfold serviceInHold
  rw [State.respond_cfg]
  split
  · exact (ignoresResponse_completeEnq.andThen ignoresResponse_execBusrService) s x
  · rfl

theorem ignoresResponse_writeBus (b : Byte) : IgnoresResponse (writeBus b) :=
  (ignoresResponse_drive b).andThen (ignoresResponse_assertClock.andThen
    (ignoresResponse_serviceInHold.andThen ignoresResponse_deassertClock))

theorem exec_busWrite_respond (b : Byte) (s : State) :
    exec (.busWrite b) (s.respond .client .nothing) = exec (.busWrite b) s := by
  simp only [exec, execBusWrite, ignoresResponse_writeBus b s, andThen_assoc]
  rfl

/-- Writes one after the other are the BUS.WRITE of each, whose answers in between are of no effect. -/
theorem execAll_busWrite (bs : List Byte) (s : State) :
    execAll (bs.map .busWrite) (s.respond .client .nothing) =
      andThen (forEach writeBus bs s) fun t => .next (t.respond .client .nothing) := by
  induction bs generalizing s with
  | nil => rfl
  | cons b rest ih =>
    rw [List.map_cons, execAll, forEach, exec_busWrite_respond, exec, execBusWrite, forEach,
      andThen_assoc, andThen_assoc]
    exact congrArg _ (funext fun t => ih t)

/-! ### RB.ENQ on `RB_BUS` -/

/-- Two states that agree in what RB.ENQ on `RB_BUS` reads: the configuration, the buffer and the free
values. -/
structure SameBusRing (s u : State) : Prop where
  cfg : u.cfg = s.cfg
  ring : u.rbBus = s.rbBus
  free : u.freeCtr = s.freeCtr

section

variable {s u : State}

/-- The producer's read changes the buffer and the free values, and what it does to them depends on nothing
else. -/
theorem readHead_bus_congr (h : SameBusRing s u) :
    readHead .bus u = ((readHead .bus s).1, { u with
      rbBus := (readHead .bus s).2.rbBus, freeCtr := (readHead .bus s).2.freeCtr }) := by
  obtain ⟨hc, hq, hf⟩ := h
  cases s
  cases u
  dsimp only at hc hq hf
  subst hc hq hf
  unfold readHead
  dsimp only
  split <;> rfl

/-- So does RB.ENQ, which adds the drop of a byte it refuses (R121). -/
theorem afterEnqueue_bus_congr (h : SameBusRing s u) (b : Byte) :
    afterEnqueue .bus b u = ((afterEnqueue .bus b s).1, { u with
      rbBus := (afterEnqueue .bus b s).2.rbBus
      freeCtr := (afterEnqueue .bus b s).2.freeCtr
      trace := u.trace ++ if (afterEnqueue .bus b s).1 then [] else [.drop (.rbFull .bus b)] }) := by
  have hslots : u.slotsOf .bus = s.slotsOf .bus := by rw [State.slotsOf, State.slotsOf, h.cfg]
  have htail : (u.ring .bus).tail = (s.ring .bus).tail := congrArg Ring.tail h.ring
  rw [afterEnqueue_eq .bus b u, afterEnqueue_eq .bus b s, readHead_bus_congr h, hslots, htail]
  split
  · rfl
  · simp only [if_true, List.append_nil]
    rfl

namespace SameBusRing

theorem refl (s : State) : SameBusRing s s := ⟨rfl, rfl, rfl⟩

theorem trans {t : State} (h : SameBusRing s t) (h' : SameBusRing t u) : SameBusRing s u :=
  ⟨h'.cfg.trans h.cfg, h'.ring.trans h.ring, h'.free.trans h.free⟩

theorem afterEnqueue_cfg (b : Byte) (s : State) : (Machine.afterEnqueue .bus b s).2.cfg = s.cfg := by
  rw [afterEnqueue_bus_congr (refl s) b]

/-- States that agree before the same byte is offered agree after it. -/
theorem afterEnqueue (h : SameBusRing s u) (b : Byte) :
    SameBusRing (afterEnqueue .bus b s).2 (afterEnqueue .bus b u).2 := by
  rw [afterEnqueue_bus_congr h b]
  exact ⟨h.cfg.trans (afterEnqueue_cfg b s).symm, rfl, rfl⟩

end SameBusRing

/-- BUSR.SERVICE with an edge pending is one RB.ENQ of the lines (R157). -/
theorem execBusrService_eq (h : SameBusRing s u) (hirq : u.irqPending = true)
    (ht : s.rbBus.tail < slots s.cfg .bus) : execBusrService u = .next { u with
      irqPending := false
      rbBus := (afterEnqueue .bus u.d s).2.rbBus
      freeCtr := (afterEnqueue .bus u.d s).2.freeCtr
      busrResp := .nothing
      trace := u.trace ++ if (afterEnqueue .bus u.d s).1 then [] else [.drop (.rbFull .bus u.d)] } := by
  have hsampled : SameBusRing s (sampleBus u).2 := ⟨h.cfg, h.ring, h.free⟩
  have hcell : u.rbBus.tail < slots u.cfg .bus := by rw [h.cfg, h.ring]; exact ht
  have henq : enqueue .bus u.d (sampleBus u).2 = .ok (afterEnqueue .bus u.d (sampleBus u).2) :=
    enqueue_eq_afterEnqueue (r := .bus) (s := (sampleBus u).2) hcell u.d
  simp only [execBusrService, serviceBus, if_pos hirq, enqueueIgnoring]
  rw [show (sampleBus u).1 = u.d from rfl, henq, afterEnqueue_bus_congr hsampled]
  rfl

/-- A state after a rise of `CLK`, read in the hold by an idle reader: one RB.ENQ of its lines, and nothing
at a deaf unit (R146, R156, R157). -/
theorem serviceInHold_edge (h : SameBusRing s u) (hnone : u.busrOp = none)
    (ht : s.rbBus.tail < slots s.cfg .bus) :
    serviceInHold (edgeIfListening u) = .next
      (if s.cfg.listens then { u with
        irqPending := false
        rbBus := (afterEnqueue .bus u.d s).2.rbBus
        freeCtr := (afterEnqueue .bus u.d s).2.freeCtr
        busrResp := .nothing
        trace := u.trace ++ (if u.irqPending then [.drop .lostEdge] else []) ++
          if (afterEnqueue .bus u.d s).1 then [] else [.drop (.rbFull .bus u.d)] }
      else u) := by
  unfold serviceInHold edgeIfListening
  by_cases hl : s.cfg.listens = true
  · have hl' : u.cfg.listens = true := by rw [h.cfg, hl]
    have hedge : clockEdge u = { u with
        irqPending := true, trace := u.trace ++ if u.irqPending then [.drop .lostEdge] else [] } := by
      rw [clockEdge_eq]
      split <;> simp
    have hidle : completeEnq .bus (clockEdge u) = .next (clockEdge u) :=
      completeEnq_none (by rw [hedge]; exact hnone)
    have hsame : SameBusRing s (clockEdge u) := by
      rw [hedge]
      exact ⟨h.cfg, h.ring, h.free⟩
    rw [if_pos hl', if_pos (by rw [hedge]; exact hl'), hidle, andThen, if_pos hl,
      execBusrService_eq hsame (by rw [hedge]) ht, hedge]
  · have hl' : ¬ u.cfg.listens = true := by rwa [h.cfg]
    rw [if_neg hl, if_neg hl', if_neg hl']

end

/-! ### The remote writer -/

/-- Where the remote writer may drive, its drive and the rise of `CLK` do not stop (R13, R156). -/
theorem remoteDrive_remoteClock {s : State} (hdriver : s.busDriver ≠ .this) (hclk : s.clk = false)
    (b : Byte) (f : State → Out) :
    andThen (remoteDrive b s) (fun s1 => andThen (remoteClock true s1) f) =
      f (edgeIfListening { s with d := b, clk := true, busDriver := .remote }) := by
  simp [remoteDrive, remoteClock, hdriver, hclk, andThen]

theorem remoteClock_fall {s : State} (hdriver : s.busDriver ≠ .this) :
    remoteClock false s = .next { s with clk := false, busDriver := .remote } := by
  simp [remoteClock, hdriver]

/-! ### What the reader changes in the hold -/

@[simp] theorem busBytes_append (l l' : List Event) : busBytes (l ++ l') = busBytes l ++ busBytes l' :=
  List.filterMap_append ..

/-- The part of the state BUSR works on while it ends an enqueue: `RB_BUS`, its own progress and answer,
and events that put no byte on the bus. -/
def ReaderStep (s t : State) : Prop :=
  ∃ q n op x es, busBytes es = [] ∧ t = { s with
    rbBus := q, freeCtr := n, busrOp := op, busrResp := x, trace := s.trace ++ es }

namespace ReaderStep

theorem trans {s t u : State} (h : ReaderStep s t) (h' : ReaderStep t u) : ReaderStep s u := by
  obtain ⟨_, _, _, _, es, hes, rfl⟩ := h
  obtain ⟨q, n, op, x, es', hes', rfl⟩ := h'
  exact ⟨q, n, op, x, es ++ es', by rw [busBytes_append, hes, hes']; rfl, by rw [List.append_assoc]⟩

/-- A change with no event. -/
theorem silent (s : State) (q : Ring) (n : Nat) (op : Option EnqOp) (x : Response) :
    ReaderStep s { s with rbBus := q, freeCtr := n, busrOp := op, busrResp := x } :=
  ⟨q, n, op, x, [], rfl, by rw [List.append_nil]⟩

theorem refl (s : State) : ReaderStep s s := silent s s.rbBus s.freeCtr s.busrOp s.busrResp

theorem drop (s : State) (d : Drop) : ReaderStep s (s.drop d) :=
  ⟨s.rbBus, s.freeCtr, s.busrOp, s.busrResp, [.drop d], rfl, rfl⟩

theorem setRing (s : State) (q : Ring) : ReaderStep s (s.setRing .bus q) :=
  silent s q s.freeCtr s.busrOp s.busrResp

theorem setEnqOp (s : State) (op : Option EnqOp) : ReaderStep s (s.setEnqOp .bus op) :=
  silent s s.rbBus s.freeCtr op s.busrResp

theorem readHead (s : State) : ReaderStep s (readHead .bus s).2 := by
  rw [readHead_bus_congr (SameBusRing.refl s)]
  exact silent s _ _ s.busrOp s.busrResp

theorem finishEnq (use : EnqUse) (ok : Bool) (s : State) : ReaderStep s (finishEnq .bus use ok s) := by
  cases use <;> exact silent s s.rbBus s.freeCtr none _

end ReaderStep

/-- In a sound state BUSR's micro-step does not stop: the cell it writes exists (R121, R125). -/
theorem enqMicro_bus_next {s : State} (h : s.Inv) (hop : (s.enqOp .bus).isSome) :
    ∃ t, enqMicro .bus s = .next t ∧ ReaderStep s t := by
  obtain ⟨op, hop⟩ := Option.isSome_iff_exists.1 hop
  obtain ⟨hring, -⟩ := h
  have hin := hring.within.2.2 op hop
  unfold enqMicro
  rw [hop]
  obtain ⟨b, p, use⟩ := op
  cases p with
  | m1 => exact ⟨_, rfl, .setEnqOp s _⟩
  | m2 t => exact ⟨_, rfl, (ReaderStep.readHead s).trans (.setEnqOp _ _)⟩
  | m3 t i =>
    dsimp only
    split
    · exact ⟨_, rfl, (ReaderStep.drop s _).trans (.finishEnq _ _ _)⟩
    · exact ⟨_, rfl, .setEnqOp s _⟩
  | m4 t i =>
    have hcell : t < s.slotsOf .bus := hin.1
    simp only [writeCell, if_pos hcell]
    exact ⟨_, rfl, (ReaderStep.setRing s _).trans (.setEnqOp _ _)⟩
  | m5 i => exact ⟨_, rfl, (ReaderStep.setRing s _).trans (.finishEnq _ _ _)⟩

/-- In a sound state BUSR ends its enqueue in progress. -/
theorem completeEnq_bus_next {s : State} (h : s.Inv) :
    ∃ t, completeEnq .bus s = .next t ∧ ReaderStep s t := by
  have hmicros : ∀ k, ∀ {s : State}, s.Inv →
      ∃ t, enqMicros .bus k s = .next t ∧ ReaderStep s t := by
    intro k
    induction k with
    | zero => exact fun {s} _ => ⟨s, rfl, .refl s⟩
    | succ k ih =>
      intro s h
      unfold enqMicros
      split
      · obtain ⟨u, hu, hsu⟩ := enqMicro_bus_next h ‹_›
        obtain ⟨t, ht, hut⟩ := ih ((inv_enqMicro h .bus).of_next hu)
        exact ⟨t, by rw [hu, andThen, ht], hsu.trans hut⟩
      · exact ⟨s, rfl, .refl s⟩
  exact hmicros 5 h

/-- BUSR.SERVICE with an edge pending does not stop (R157). -/
theorem execBusrService_next {s : State} (hirq : s.irqPending = true)
    (ht : s.rbBus.tail < slots s.cfg .bus) :
    ∃ t, ReaderStep s t ∧ execBusrService s = .next { t with irqPending := false } := by
  have hes : busBytes (if (afterEnqueue .bus s.d s).1 then [] else [.drop (.rbFull .bus s.d)]) = [] := by
    split <;> rfl
  refine ⟨_, ⟨(afterEnqueue .bus s.d s).2.rbBus, (afterEnqueue .bus s.d s).2.freeCtr, s.busrOp,
    .nothing, _, hes, rfl⟩, ?_⟩
  exact execBusrService_eq (.refl s) hirq ht

/-- In a sound state the hold does not stop, and leaves no edge pending at a unit that listens. -/
theorem serviceInHold_next {s : State} (h : s.Inv) (hirq : s.cfg.listens = true → s.irqPending = true) :
    ∃ t, ReaderStep s t ∧
      serviceInHold s = .next { t with irqPending := s.irqPending && !s.cfg.listens } := by
  unfold serviceInHold
  split
  · rename_i hl
    obtain ⟨u, hu, hsu⟩ := completeEnq_bus_next h
    obtain ⟨⟨⟨-, -, -, htail, -⟩, -⟩, -⟩ := (inv_completeEnq h .bus).of_next hu
    have hpending : u.irqPending = true := by
      obtain ⟨_, _, _, _, _, -, rfl⟩ := hsu
      exact hirq hl
    obtain ⟨t, hut, ht⟩ := execBusrService_next hpending htail
    exact ⟨t, hsu.trans hut, by rw [hu, andThen, ht, hl, Bool.not_true, Bool.and_false]⟩
  · rename_i hl
    exact ⟨s, .refl s, by simp [hl]⟩

/-- An edge at a listening unit is pending; it puts no byte on the bus (R156). -/
theorem edgeIfListening_eq (s : State) : ∃ es, busBytes es = [] ∧ edgeIfListening s = { s with
    irqPending := s.irqPending || s.cfg.listens, trace := s.trace ++ es } := by
  unfold edgeIfListening
  split <;> rename_i hl
  · refine ⟨if s.irqPending then [.drop .lostEdge] else [], by split <;> rfl, ?_⟩
    rw [clockEdge_eq, hl, Bool.or_true]
    split <;> simp
  · exact ⟨[], rfl, by simp [hl]⟩

/-- What a held clock does to the state `s` in which it has just risen, by way of this unit's reader
(R146, R156, R157). -/
structure Held (s t : State) : Prop where
  frame : ∃ irq q n op x es, busBytes es = [] ∧ t = { s with
    irqPending := irq, rbBus := q, freeCtr := n, busrOp := op, busrResp := x, trace := s.trace ++ es }
  client : t.clientState = s.clientState
  read : ∀ {s₀}, SameBusRing s₀ s → s.cfg.listens = true → s.busrOp = none →
    SameBusRing (afterEnqueue .bus s.d s₀).2 t ∧ t.irqPending = false ∧ t.busrOp = none ∧
      t.busrResp = .nothing
  unread : s.cfg.listens = false → t = s

/-- In a sound state the hold does not stop; the reader's part of it is one RB.ENQ of the lines. -/
theorem serviceInHold_held {s : State} (h : s.Inv) :
    ∃ t, serviceInHold (edgeIfListening s) = .next t ∧ Held s t := by
  obtain ⟨es, hes, hedge⟩ := edgeIfListening_eq s
  have hirq : (edgeIfListening s).cfg.listens = true → (edgeIfListening s).irqPending = true := by
    rw [hedge]
    exact fun hl => by rw [show s.cfg.listens = true from hl, Bool.or_true]
  obtain ⟨u, ⟨q, n, op, x, es', hes', rfl⟩, ht⟩ := serviceInHold_next (inv_edgeIfListening h) hirq
  have hclient := (keepsClient_serviceInHold _).of_next ht
  refine ⟨_, ht, ?_, hclient.trans (clientState_edgeIfListening s), fun hsame hl hnone => ?_,
    fun hl => ?_⟩
  · rw [hedge]
    exact ⟨_, q, n, op, x, es ++ es', by rw [busBytes_append, hes, hes']; rfl, by rw [List.append_assoc]⟩
  · obtain ⟨⟨-, -, -, htail, -⟩, -⟩ := h.1
    rw [hsame.cfg] at hl
    have hread := serviceInHold_edge hsame hnone (by rw [← hsame.cfg, ← hsame.ring]; exact htail)
    rw [if_pos hl] at hread
    rw [Host.Outcome.next.inj (ht.symm.trans hread)]
    exact ⟨⟨hsame.cfg.trans (SameBusRing.afterEnqueue_cfg _ _).symm, rfl, rfl⟩, rfl, hnone, rfl⟩
  · have hdeaf : ¬ s.cfg.listens = true := by simp [hl]
    have hnothing : serviceInHold (edgeIfListening s) = .next s := by
      rw [edgeIfListening, if_neg hdeaf, serviceInHold, if_neg hdeaf]
    exact Host.Outcome.next.inj (ht.symm.trans hnothing)

/-! ### One BUS.WRITE on an idle bus -/

/-- BUSW.DRIVE puts the byte on the lines, and takes some time (R142). -/
theorem drive_idle {s : State} (hp : s.buswPhase = .idle) (hclk : s.clk = false)
    (hd : s.busDriver ≠ .remote) (b : Byte) :
    ∃ τ m l, drive b s = .next { s with
      d := b, buswPhase := .driven, busDriver := .this, time := τ, busMark := m, delays := l } := by
  have hfree : ¬ (s.busDriver = .remote ∨ s.clk = true) := by simp [hd, hclk]
  rw [drive, if_neg hfree, if_pos hp, State.waitBus_eq]
  exact ⟨_, _, _, rfl⟩

/-- BUSW.ASSERT raises `CLK`; the lines are observed, and the unit's own reader has the edge (R143). -/
theorem assertClock_driven {s : State} (hp : s.buswPhase = .driven) :
    ∃ τ m l, assertClock s = .next (edgeIfListening { s with
      clk := true, buswPhase := .asserted, time := τ, busMark := m, delays := l,
      trace := s.trace ++ [.busByte s.d] }) := by
  rw [assertClock, if_pos hp, State.waitBus_eq]
  exact ⟨_, _, _, rfl⟩

/-- BUSW.DEASSERT lowers `CLK` and leaves the lines as they are (R144). -/
theorem deassertClock_asserted {s : State} (hp : s.buswPhase = .asserted) :
    ∃ τ m l, deassertClock s = .next { s with
      clk := false, buswPhase := .idle, time := τ, busMark := m, delays := l } := by
  rw [deassertClock, if_pos hp, State.waitBus_eq]
  exact ⟨_, _, _, rfl⟩

/-- On an idle bus the drive and the assert do not stop: the lines hold the byte, which is observed, and a
reading unit has its edge (R142, R143). -/
theorem writeBus_idle {s : State} (hp : s.buswPhase = .idle) (hclk : s.clk = false)
    (hd : s.busDriver ≠ .remote) (b : Byte) :
    ∃ τ m l, writeBus b s = andThen (serviceInHold (edgeIfListening { s with
      d := b, clk := true, buswPhase := .asserted, busDriver := .this, time := τ, busMark := m, delays := l,
      trace := s.trace ++ [.busByte b] })) deassertClock := by
  obtain ⟨τ₁, m₁, l₁, hdrive⟩ := drive_idle hp hclk hd b
  obtain ⟨τ, m, l, hassert⟩ := assertClock_driven (s := { s with
    d := b, buswPhase := .driven, busDriver := .this, time := τ₁, busMark := m₁, delays := l₁ }) rfl
  exact ⟨τ, m, l, by rw [writeBus, hdrive, andThen, hassert, andThen]⟩

/-- What putting bytes `bs` on the bus, `b` the last, may change beside the client's answer: the lines, the
reader's part of the state, the time, and the trace. -/
def BusStep (bs : List Byte) (b : Byte) (s t : State) : Prop :=
  ∃ irq q τ m l n op x es, busBytes es = bs ∧ t = { s with
    d := b, busDriver := .this, irqPending := irq, rbBus := q, time := τ, busMark := m, delays := l,
    freeCtr := n, busrOp := op, busrResp := x, trace := s.trace ++ es }

namespace BusStep

variable {bs bs' : List Byte} {b b' : Byte} {s t u : State}

theorem trans (h : BusStep bs b s t) (h' : BusStep bs' b' t u) : BusStep (bs ++ bs') b' s u := by
  obtain ⟨_, _, _, _, _, _, _, _, es, rfl, rfl⟩ := h
  obtain ⟨irq, q, τ, m, l, n, op, x, es', rfl, rfl⟩ := h'
  exact ⟨irq, q, τ, m, l, n, op, x, es ++ es', busBytes_append _ _, by rw [List.append_assoc]⟩

theorem lines (h : BusStep bs b s t) :
    t.buswPhase = s.buswPhase ∧ t.clk = s.clk ∧ t.busDriver = .this := by
  obtain ⟨_, _, _, _, _, _, _, _, _, -, rfl⟩ := h
  exact ⟨rfl, rfl, rfl⟩

theorem cfg (h : BusStep bs b s t) : t.cfg = s.cfg := by
  obtain ⟨_, _, _, _, _, _, _, _, _, -, rfl⟩ := h
  rfl

end BusStep

/-- What one BUS.WRITE of `b` does to a state with an idle bus, beside the client's answer. -/
structure Wrote (b : Byte) (s t : State) : Prop where
  inv : t.Inv
  frame : BusStep [b] b s t
  client : t.clientState = { s.clientState with ownLines := some (b, false) }
  read : s.cfg.listens = true → s.busrOp = none →
    SameBusRing (afterEnqueue .bus b s).2 t ∧ t.irqPending = false ∧ t.busrOp = none ∧
      t.busrResp = .nothing
  unread : s.cfg.listens = false →
    SameBusRing s t ∧ t.irqPending = s.irqPending ∧ t.busrOp = s.busrOp ∧ t.busrResp = s.busrResp

/-- In a sound state with an idle bus, a write does not stop: drive and rise, the hold, the fall. -/
theorem writeBus_wrote {s : State} (h : s.Inv) (hp : s.buswPhase = .idle) (hclk : s.clk = false)
    (hd : s.busDriver ≠ .remote) (b : Byte) : ∃ t, writeBus b s = .next t ∧ Wrote b s t := by
  obtain ⟨τ, m, l, hwrite⟩ := writeBus_idle hp hclk hd b
  have hraised : State.Inv { s with
      d := b, clk := true, buswPhase := .asserted, busDriver := .this, time := τ, busMark := m, delays := l,
      trace := s.trace ++ [.busByte b] } :=
    h.setLines (b := b) (l := true) (p := .asserted) (w := .this) (by simp) (by simp) (by simp)
  obtain ⟨u, hu, ⟨irq, q, n, op, x, es, hes, hframe⟩, hclient, hread, hunread⟩ :=
    serviceInHold_held hraised
  have hphase : u.buswPhase = .asserted := by rw [hframe]
  obtain ⟨τ', m', l', ht⟩ := deassertClock_asserted hphase
  rw [hu, andThen, ht] at hwrite
  refine ⟨_, hwrite, (inv_writeBus b h).of_next hwrite, ?_, ?_, fun hl hnone => ?_, fun hl => ?_⟩
  · refine ⟨irq, q, τ', m', l', n, op, x, [.busByte b] ++ es, ?_, ?_⟩
    · rw [busBytes_append, hes]
      rfl
    · simp [hframe, hp, hclk]
  · have hdriver : u.busDriver = .this := by rw [hframe]
    have hd : u.d = b := by rw [hframe]
    calc
      _ = { u.clientState with buswPhase := .idle, ownLines := some (b, false) } := by
        simp [State.clientState, hdriver, hd]
      _ = _ := by
        rw [hclient]
        simp [State.clientState, hp]
  · obtain ⟨hoffered, hirq, hop, hx⟩ := hread (s₀ := s) ⟨rfl, rfl, rfl⟩ hl hnone
    exact ⟨⟨hoffered.cfg, hoffered.ring, hoffered.free⟩, hirq, hop, hx⟩
  · rw [hunread hl]
    exact ⟨⟨rfl, rfl, rfl⟩, rfl, rfl, rfl⟩

/-- After a write the bus is idle again, and this unit may write on (R144, R147). -/
theorem Wrote.again {b : Byte} {s t : State} (h : Wrote b s t) (hp : s.buswPhase = .idle)
    (hclk : s.clk = false) (b' : Byte) : ∃ u, writeBus b' t = .next u ∧ Wrote b' t u := by
  obtain ⟨hphase, hlow, hdriver⟩ := h.frame.lines
  exact writeBus_wrote h.inv (hphase.trans hp) (hlow.trans hclk) (by simp [hdriver]) b'

end Sys2Proof.Machine

open Sys2Proof Sys2Proof.Machine

/-- Settles O33: where the remote writer may not drive, its first step is refused too; else the service in
the hold is one RB.ENQ, which the fall of `CLK` does not touch. -/
theorem remoteTransferOffersTheByte : Obligations.RemoteTransferOffersTheByte := by
  unfold Obligations.RemoteTransferOffersTheByte
  intro b s
  refine ⟨?_, fun hdriver hclk hnone ht => ?_⟩
  · simp only [exec, execByte, perform]
    by_cases hbusy : s.busDriver = .this ∨ s.clk = true
    · rw [if_pos hbusy, remoteDrive_refused hbusy, andThen]
    · obtain ⟨hdriver, hclk⟩ : s.busDriver ≠ .this ∧ s.clk = false := by simpa using hbusy
      rw [if_neg hbusy, remoteDrive_remoteClock hdriver hclk, remoteDrive_remoteClock hdriver hclk,
        serviceInHold, (advances_edgeIfListening _).cfg]
      rfl
  · have hfree : ¬ (s.busDriver = .this ∨ s.clk = true) := by simp [hdriver, hclk]
    have hhold := serviceInHold_edge (s := s) (u := { s with d := b, clk := true, busDriver := .remote })
      ⟨rfl, rfl, rfl⟩ hnone ht
    rw [exec, execByte, if_neg hfree, remoteDrive_remoteClock hdriver hclk, hhold, andThen]
    by_cases hl : s.cfg.listens = true
    · have hsent := afterEnqueue_bus_congr (s := s) (u := { s with
        d := b, busDriver := .remote, irqPending := false
        trace := s.trace ++ if s.irqPending then [.drop .lostEdge] else [] }) ⟨rfl, rfl, rfl⟩ b
      simp only [if_pos hl]
      rw [remoteClock_fall (by simp), hsent]
      simp only [State.respond, hclk]
    · simp only [if_neg hl]
      rw [remoteClock_fall (by simp), ← hclk]

/-- Settles O32: a write ignores the answer of the one before it, and on an idle bus it leaves the bus idle
and the state sound, so that the next may follow. -/
theorem sendPacketPutsThreeBytesOnTheBus : Obligations.SendPacketPutsThreeBytesOnTheBus := by
  unfold Obligations.SendPacketPutsThreeBytesOnTheBus
  intro f1 f2 s
  refine ⟨?_, fun hinv hp hclk hd => ?_⟩
  · have hall := execAll_busWrite [s.cfg.startSentinel, f1, f2] s
    simp only [exec, execBusSendpkt]
    rw [← hall]
    simp only [List.map_cons, execAll, forEach, exec_busWrite_respond]
    rfl
  · obtain ⟨t, ht, hst⟩ := writeBus_wrote hinv hp hclk hd s.cfg.startSentinel
    obtain ⟨hphase, hlow, -⟩ := hst.frame.lines
    obtain ⟨u, hu, htu⟩ := hst.again hp hclk f1
    obtain ⟨v, hv, huv⟩ := htu.again (hphase.trans hp) (hlow.trans hclk) f2
    obtain ⟨_, _, _, _, _, _, _, _, es, hes, hframe⟩ := (hst.frame.trans htu.frame).trans huv.frame
    have htcfg := hst.frame.cfg
    have hucfg := htu.frame.cfg.trans htcfg
    refine ⟨v.respond .client .nothing, ?_, ?_, ?_, ?_, fun hl hnone => ?_, fun hl => ?_⟩
    · simp only [exec, execBusSendpkt, forEach, ht, andThen, hu, hv]
    · rw [hframe, State.respond_trace, busBytes_append, hes]
      rfl
    · rw [hframe]
      rfl
    · have hclient : v.clientState = { s.clientState with ownLines := some (f2, false) } := by
        rw [huv.client, htu.client, hst.client]
      calc
        _ = { v.clientState with clientResp := .nothing } := rfl
        _ = _ := by rw [hclient]
    · obtain ⟨hsame₁, -, hidle₁, -⟩ := hst.read hl hnone
      obtain ⟨hsame₂, -, hidle₂, -⟩ := htu.read (htcfg ▸ hl) hidle₁
      obtain ⟨hsame₃, hirq, hidle₃, hresp⟩ := huv.read (hucfg ▸ hl) hidle₂
      have hsame := (((hsame₁.afterEnqueue f1).trans hsame₂).afterEnqueue f2).trans hsame₃
      exact ⟨hsame.ring, hsame.free, hirq, hidle₃, hresp⟩
    · obtain ⟨hsame₁, hirq₁, hop₁, hresp₁⟩ := hst.unread hl
      obtain ⟨hsame₂, hirq₂, hop₂, hresp₂⟩ := htu.unread (htcfg ▸ hl)
      obtain ⟨hsame₃, hirq₃, hop₃, hresp₃⟩ := huv.unread (hucfg ▸ hl)
      have hsame := (hsame₁.trans hsame₂).trans hsame₃
      exact ⟨hsame.ring, hsame.free, (hirq₃.trans hirq₂).trans hirq₁,
        (hop₃.trans hop₂).trans hop₁, (hresp₃.trans hresp₂).trans hresp₁⟩
end

section
/-! PROOF. The client's micro-steps on the bus with their waits, and BUS.WRITE as their sequence with this
unit's reader in the hold (R141 to R146, R148). -/

namespace Sys2Proof.Machine

open Sys2Proof

/-! ### The client's micro-steps -/

/-- `s` after BUSW.DRIVE of `b` at time `τ` (R142). -/
def State.driven (b : Byte) (τ : Nat) (s : State) : State := { s with
  d := b, buswPhase := .driven, busDriver := .this, time := τ, busMark := some τ,
  delays := s.delays.tail, clientResp := .nothing }

/-- `s` after BUSW.ASSERT at time `τ`, with the edge of this unit's own reader (R143, R156). -/
def State.raised (τ : Nat) (s : State) : State := { s with
  clk := true, buswPhase := .asserted, time := τ, busMark := some τ, delays := s.delays.tail,
  irqPending := s.irqPending || s.cfg.listens,
  trace := s.trace ++ [.busByte s.d] ++
    (if s.irqPending && s.cfg.listens then [.drop .lostEdge] else []),
  clientResp := .nothing }

/-- `s` after BUSW.DEASSERT at time `τ` (R144). -/
def State.lowered (τ : Nat) (s : State) : State := { s with
  clk := false, buswPhase := .idle, time := τ, busMark := some τ, delays := s.delays.tail,
  clientResp := .nothing }

theorem exec_buswDrive {s : State} (hp : s.buswPhase = .idle) (hclk : s.clk = false)
    (hd : s.busDriver ≠ .remote) (b : Byte) :
    exec (.buswDrive b) s = .next (s.driven b (s.waitBus s.cfg.tGap).time) := by
  have hfree : ¬ (s.busDriver = .remote ∨ s.clk = true) := by simp [hd, hclk]
  rw [exec, execBuswDrive, drive, if_neg hfree, if_pos hp, State.waitBus_eq]
  rfl

/-- The edge at a unit's own reader: pending if it listens, and lost if one was pending (R156). -/
theorem edgeIfListening_merges (s : State) : edgeIfListening s = { s with
    irqPending := s.irqPending || s.cfg.listens
    trace := s.trace ++ if s.irqPending && s.cfg.listens then [.drop .lostEdge] else [] } := by
  unfold edgeIfListening
  split <;> rename_i hl
  · rw [clockEdge_eq, hl]
    cases hirq : s.irqPending <;> simp
  · simp [hl]

theorem exec_buswAssert {s : State} (hp : s.buswPhase = .driven) :
    exec .buswAssert s = .next (s.raised (s.waitBus s.cfg.tSetup).time) := by
  rw [exec, execBuswAssert, assertClock, if_pos hp, edgeIfListening_merges, State.waitBus_eq]
  rfl

theorem exec_buswDeassert {s : State} (hp : s.buswPhase = .asserted) :
    exec .buswDeassert s = .next (s.lowered (s.waitBus s.cfg.tHold).time) := by
  rw [exec, execBuswDeassert, deassertClock, if_pos hp, State.waitBus_eq]
  rfl

/-! ### BUS.WRITE is its micro-steps -/

/-- `o`, after which the client has its answer: nothing but that it is done. -/
def answered (o : Out) : Out := andThen o fun s => .next (s.respond .client .nothing)

/-- An answer between two parts of an operation is of no effect, if the second part ignores it and answers
itself. -/
theorem andThen_answered {g : State → Out} (hg : IgnoresResponse g) (o : Out) :
    andThen (answered o) (fun s => answered (g s)) = answered (andThen o g) := by
  cases o with
  | next s =>
    change answered (g (s.respond .client .nothing)) = answered (g s)
    rw [hg s, answered, andThen_assoc]
    rfl
  | fault x => rfl
  | refused x => rfl

theorem answered_andThen (o : Out) (f : State → Out) :
    answered (andThen o f) = andThen o fun s => answered (f s) := andThen_assoc _ _ _

/-- A write, its answer included, is the drive, the rise, the reader in the hold, and the fall, each an
operation of its own (R141, R146). -/
theorem answered_writeBus (b : Byte) (s : State) : answered (writeBus b s) =
    andThen (exec (.buswDrive b) s) fun s1 => andThen (exec .buswAssert s1) fun s2 =>
    andThen (serviceInHold s2) (exec .buswDeassert) := by
  have hfall : IgnoresResponse fun s2 => andThen (serviceInHold s2) deassertClock :=
    ignoresResponse_serviceInHold.andThen ignoresResponse_deassertClock
  have hrise : IgnoresResponse fun s1 =>
      andThen (assertClock s1) fun s2 => andThen (serviceInHold s2) deassertClock :=
    ignoresResponse_assertClock.andThen hfall
  rw [writeBus, ← andThen_answered hrise]
  simp only [← andThen_answered hfall, answered_andThen]
  rfl

/-- No operation changes the configuration (R38). -/
theorem exec_cfg {i : Instr} {s t : State} (h : exec i s = .next t) : t.cfg = s.cfg := by
  have hsafe := safe_exec i s
  rw [h] at hsafe
  exact State.Advances.cfg hsafe

/-- BUS.SENDREADY is the write of the ready byte (R148). -/
theorem exec_write_eq {i : Instr} {b : Byte} {s : State}
    (hi : i = .busWrite b ∨ (i = .busSendready ∧ b = s.cfg.readyByte)) :
    exec i s = answered (writeBus b s) := by
  rcases hi with rfl | ⟨rfl, rfl⟩ <;> rfl

/-- BUS.WRITE and BUS.SENDREADY are the micro-steps, whether there is a reader in the hold being fixed at the
beginning (R38). -/
theorem exec_write_microSteps {i : Instr} {b : Byte} {s : State}
    (hi : i = .busWrite b ∨ (i = .busSendready ∧ b = s.cfg.readyByte)) :
    exec i s =
      andThen (exec (.buswDrive b) s) fun s1 => andThen (exec .buswAssert s1) fun s2 =>
      andThen (if s.cfg.listens then andThen (completeEnq .bus s2) (exec .busrService) else .next s2)
        (exec .buswDeassert) := by
  rw [exec_write_eq hi, answered_writeBus]
  refine andThen_congr fun s1 hdrive => andThen_congr fun s2 hassert => ?_
  rw [serviceInHold, exec_cfg hassert, exec_cfg hdrive]
  rfl

/-- On an idle bus the drive and the rise do not stop, and keep their waits; what is left of the write is the
reader in the hold, and the fall (R141 to R143). -/
theorem exec_write_raised {i : Instr} {b : Byte} {s : State}
    (hi : i = .busWrite b ∨ (i = .busSendready ∧ b = s.cfg.readyByte)) (hp : s.buswPhase = .idle)
    (hclk : s.clk = false) (hd : s.busDriver ≠ .remote) :
    ∃ τ₁ τ₂, s.time ≤ τ₁ ∧ τ₁ + s.cfg.tSetup * s.cfg.ticksPerUs ≤ τ₂ ∧
      exec i s = andThen (serviceInHold ((s.driven b τ₁).raised τ₂)) (exec .buswDeassert) := by
  refine ⟨(s.waitBus s.cfg.tGap).time, _, s.time_le_waitBus _,
    State.wait_le_waitBus (s.driven b (s.waitBus s.cfg.tGap).time) _ _ rfl, ?_⟩
  rw [exec_write_eq hi, answered_writeBus, exec_buswDrive hp hclk hd, andThen, exec_buswAssert rfl,
    andThen]
  rfl

/-- The reader in the hold of this unit's own write: one RB.ENQ of the lines if it listens, and else nothing
(R146, R157). -/
theorem serviceInHold_raised {b : Byte} {s : State} (hnone : s.busrOp = none)
    (ht : s.rbBus.tail < slots s.cfg .bus) (τ₁ τ₂ : Nat) :
    let u := (s.driven b τ₁).raised τ₂
    ∃ v, serviceInHold u = .next v ∧ v = if s.cfg.listens then { u with
      irqPending := false
      rbBus := (afterEnqueue .bus b s).2.rbBus
      freeCtr := (afterEnqueue .bus b s).2.freeCtr
      busrResp := .nothing
      trace := u.trace ++ if (afterEnqueue .bus b s).1 then [] else [.drop (.rbFull .bus b)] }
    else u := by
  intro u
  have hsame : SameBusRing s u := ⟨rfl, rfl, rfl⟩
  have hidle : completeEnq .bus u = .next u := completeEnq_none hnone
  refine ⟨_, ?_, rfl⟩
  rw [serviceInHold, hsame.cfg]
  split <;> rename_i hl
  · have hirq : u.irqPending = true := by
      change (s.irqPending || s.cfg.listens) = true
      rw [hl, Bool.or_true]
    rw [hidle, andThen, execBusrService_eq hsame hirq ht]
    rfl
  · rfl

end Sys2Proof.Machine

open Sys2Proof Sys2Proof.Machine

/-- Settles O27: the wait of the drive is for the gap (R141). -/
theorem driveSetsTheLines : Obligations.DriveSetsTheLines := by
  unfold Obligations.DriveSetsTheLines
  intro b s hp hclk hd
  exact ⟨_, s.time_le_waitBus _, s.wait_le_waitBus _, exec_buswDrive hp hclk hd b⟩

/-- Settles O28: the wait of the rise is for the set-up time, and the edge merges with one pending. -/
theorem assertRaisesTheClock : Obligations.AssertRaisesTheClock := by
  unfold Obligations.AssertRaisesTheClock
  intro s hp
  exact ⟨_, s.time_le_waitBus _, s.wait_le_waitBus _, exec_buswAssert hp⟩

/-- Settles O29: the wait of the fall is for the hold time. -/
theorem deassertLowersTheClock : Obligations.DeassertLowersTheClock := by
  unfold Obligations.DeassertLowersTheClock
  intro s hp
  exact ⟨_, s.time_le_waitBus _, s.wait_le_waitBus _, exec_buswDeassert hp⟩

/-- Settles O31: the waits of the three micro-steps add up, and the service in the hold is one RB.ENQ, which
the fall of `CLK` does not touch. -/
theorem busWriteTransfersTheByte : Obligations.BusWriteTransfersTheByte := by
  unfold Obligations.BusWriteTransfersTheByte
  intro i b s hi
  refine ⟨exec_write_microSteps hi, fun hp hclk hd hnone ht => ?_⟩
  obtain ⟨τ₁, τ₂, hτ₁, hτ₂, hraised⟩ := exec_write_raised hi hp hclk hd
  obtain ⟨v, hhold, hv⟩ := serviceInHold_raised (b := b) hnone ht τ₁ τ₂
  obtain ⟨hcfg, hmark, hphase⟩ :
      v.cfg = s.cfg ∧ v.busMark = some τ₂ ∧ v.buswPhase = .asserted := by
    rw [hv]
    split <;> exact ⟨rfl, rfl, rfl⟩
  have hτ₃ := v.wait_le_waitBus s.cfg.tHold τ₂ hmark
  rw [hcfg] at hτ₃
  rw [hhold, andThen, exec_buswDeassert hphase, hcfg] at hraised
  refine ⟨(v.waitBus s.cfg.tHold).time, ?_, hraised.trans (congrArg _ ?_)⟩
  · rw [Nat.add_mul]
    omega
  · have hdelays : s.delays.tail.tail.tail = s.delays.drop 3 := by
      simp only [← List.drop_one, List.drop_drop]
    rw [hv]
    by_cases hl : s.cfg.listens = true
    · have hsent := afterEnqueue_bus_congr (s := s) (u := { s with
        d := b, busDriver := .this, irqPending := false
        trace := s.trace ++ [.busByte b] ++
          if s.irqPending && s.cfg.listens then [.drop .lostEdge] else [] }) ⟨rfl, rfl, rfl⟩ b
      simp only [if_pos hl]
      rw [hsent]
      simp only [State.lowered, State.raised, State.driven, hp, hclk, hdelays, hl, Bool.and_true]
    · simp [State.lowered, State.raised, State.driven, hp, hclk, hdelays, hl]
end

section
/-! PROOF. The bus round trip (R169): a byte written to an idle bus by a unit that reads it is the one byte of
its `RB_BUS`, which the read takes out, so that the next round starts as this one did. -/

namespace Sys2Proof.Machine

open Sys2Proof

theorem execAll_append (l l' : List Instr) (s : State) :
    execAll (l ++ l') s = andThen (execAll l s) (execAll l') := by
  induction l generalizing s with
  | nil => rfl
  | cons i rest ih =>
    simp only [execAll, List.cons_append, forEach, andThen_assoc] at ih ⊢
    exact congrArg _ (funext ih)

/-- The events of one round, an edge lost or not, are one byte put on the bus and one taken out of
`RB_BUS`. -/
theorem bytes_of_round (l : List Event) (b : Byte) (lost : Prop) [Decidable lost] :
    let l' := l ++ [.busByte b] ++ (if lost then [.drop .lostEdge] else []) ++ [.deq .bus b]
    deqBytes .bus l' = deqBytes .bus l ++ [b] ∧ busBytes l' = busBytes l ++ [b] := by
  split <;> simp [deqBytes, busBytes]

/-- RB.ENQ stores a byte in an empty buffer of more than one cell (R121). -/
theorem afterEnqueue_of_empty {r : RingId} {s : State} (hv : s.cfg.rbView = .immediate)
    (hcells : 1 < s.slotsOf r) (ht : (s.ring r).tail < s.slotsOf r)
    (he : (s.ring r).head = (s.ring r).tail) (b : Byte) :
    afterEnqueue r b s = (true, s.setRing r { s.ring r with
      buf := (s.ring r).buf.write (s.ring r).tail b
      tail := nextIndex (s.slotsOf r) (s.ring r).tail }) := by
  have hroom : nextIndex (s.slotsOf r) (s.ring r).tail ≠ (s.ring r).head := by
    rw [he, nextIndex_eq ht]
    split <;> omega
  rw [afterEnqueue_eq, readHead_immediate hv, if_neg hroom]

/-- What a round of the trip needs of the bus: under `IMMEDIATE`, the unit reads it, and it is idle, not
another's, and not being serviced. -/
structure State.ReadsOwnBus (s : State) : Prop where
  view : s.cfg.rbView = .immediate
  listens : s.cfg.listens = true
  phase : s.buswPhase = .idle
  clk : s.clk = false
  driver : s.busDriver ≠ .remote
  reader : s.busrOp = none

/-- What it needs of `RB_BUS`, a buffer of `n` cells: room for a byte, and no byte held. -/
structure Ring.RoundTripReady (n : Nat) (q : Ring) : Prop where
  cells : 1 < n
  memory : q.buf.wf
  tail : q.tail < n
  empty : q.head = q.tail

/-- The write puts the byte on the bus and in cell `tail` of `RB_BUS` (R146, R169). -/
theorem State.ReadsOwnBus.write {s : State} (h : s.ReadsOwnBus)
    (hq : s.rbBus.RoundTripReady (slots s.cfg .bus)) (b : Byte) :
    ∃ t, exec (.busWrite b) s = .next t ∧ t.cfg = s.cfg ∧ t.ReadsOwnBus ∧
      t.rbBus = { s.rbBus with
        buf := s.rbBus.buf.write s.rbBus.tail b, tail := nextIndex (slots s.cfg .bus) s.rbBus.tail } ∧
      t.trace = s.trace ++ [.busByte b] ++
        (if s.irqPending && s.cfg.listens then [.drop .lostEdge] else []) := by
  obtain ⟨hview, hlistens, hphase, hclk, hdriver, hreader⟩ := h
  obtain ⟨hcells, -, htail, hempty⟩ := hq
  obtain ⟨-, hidle⟩ := busWriteTransfersTheByte (.busWrite b) b s (.inl rfl)
  obtain ⟨τ, -, hwrite⟩ := hidle hphase hclk hdriver hreader htail
  have hstored := afterEnqueue_of_empty (r := .bus) (s := { s with
    d := b, busDriver := .this, irqPending := false
    trace := s.trace ++ [.busByte b] ++
      if s.irqPending && s.cfg.listens then [.drop .lostEdge] else [] }) hview hcells htail hempty b
  simp only [if_pos hlistens] at hwrite
  rw [hstored] at hwrite
  exact ⟨_, hwrite, rfl, ⟨hview, hlistens, hphase, hclk, nofun, hreader⟩, rfl, rfl⟩

/-- One round: the byte held is the one written, and the read takes it out (R160, R169). -/
theorem State.ReadsOwnBus.round {s : State} (h : s.ReadsOwnBus)
    (hq : s.rbBus.RoundTripReady (slots s.cfg .bus)) (b : Byte) :
    ∃ t, execAll [.busWrite b, .busRead] s = .next t ∧ t.cfg = s.cfg ∧ t.ReadsOwnBus ∧
      t.rbBus.RoundTripReady (slots s.cfg .bus) ∧
      deqBytes .bus t.trace = deqBytes .bus s.trace ++ [b] ∧
      busBytes t.trace = busBytes s.trace ++ [b] := by
  obtain ⟨u, hwrite, hcfg, hown, hring, htrace⟩ := h.write hq b
  obtain ⟨hview, hlistens, hphase, hclk, hdriver, hreader⟩ := hown
  obtain ⟨hcells, hmemory, htail, hempty⟩ := hq
  have hhead : u.rbBus.head = s.rbBus.tail := by rw [hring, ← hempty]
  have hbyte : u.rbBus.buf.read u.rbBus.head = b := by
    rw [hhead, hring, Memory.read_write_self hmemory]
  have hlast : u.rbBus.tail = nextIndex (slots s.cfg .bus) s.rbBus.tail := by rw [hring]
  have hheld : u.rbBus.head ≠ u.rbBus.tail := by
    rw [hhead, hlast, nextIndex_eq htail]
    split <;> omega
  have hread : dequeue .bus u = .ok (some b, publishHead .bus u.rbBus.head b u) := by
    have hin : u.rbBus.head < u.slotsOf .bus := by rwa [hhead, State.slotsOf, hcfg]
    rw [dequeue_immediate_some (r := .bus) hview hin hheld, State.ring, hbyte]
  refine ⟨(publishHead .bus u.rbBus.head b u).respond .client (.byte b), ?_, hcfg,
    ⟨hview, hlistens, hphase, hclk, hdriver, hreader⟩, ⟨hcells, ?_, ?_, ?_⟩, ?_⟩
  · rw [execAll_pair, hwrite, andThen, exec, execBusRead, hread]
  · change u.rbBus.buf.wf
    rw [hring]
    exact Memory.write_wf hmemory _ _
  · change u.rbBus.tail < _
    rw [hlast]
    exact nextIndex_lt _ _ _
  · change nextIndex (slots u.cfg .bus) u.rbBus.head = u.rbBus.tail
    rw [hhead, hlast, hcfg]
  · have hbytes := bytes_of_round s.trace b (s.irqPending && s.cfg.listens)
    rwa [← htrace] at hbytes

/-- Any bytes, one round each. -/
theorem State.ReadsOwnBus.roundTrip (bs : List Byte) {s : State} (h : s.ReadsOwnBus)
    (hq : s.rbBus.RoundTripReady (slots s.cfg .bus)) :
    ∃ t, execAll (bs.flatMap fun b => [.busWrite b, .busRead]) s = .next t ∧
      deqBytes .bus t.trace = deqBytes .bus s.trace ++ bs ∧
      busBytes t.trace = busBytes s.trace ++ bs ∧ t.rbBus.head = t.rbBus.tail := by
  induction bs generalizing s with
  | nil => exact ⟨s, rfl, by simp, by simp, hq.empty⟩
  | cons b rest ih =>
    obtain ⟨u, hu, hcfg, hown, hready, hdeq, hbus⟩ := h.round hq b
    obtain ⟨t, ht, hdeqs, hbuses, hempty⟩ := ih hown (by rwa [hcfg])
    refine ⟨t, ?_, ?_, ?_, hempty⟩
    · rw [List.flatMap_cons, execAll_append, hu, andThen, ht]
    · rw [hdeqs, hdeq, List.append_assoc, List.singleton_append]
    · rw [hbuses, hbus, List.append_assoc, List.singleton_append]

end Sys2Proof.Machine

open Sys2Proof Sys2Proof.Machine

/-- Settles O34: the buffer has room for a byte, which is all a round needs of it. -/
theorem busRoundTripReturnsEveryByte : Obligations.BusRoundTripReturnsEveryByte := by
  unfold Obligations.BusRoundTripReturnsEveryByte
  intro bs s hinv hwf hview hlistens hphase hclk hdriver hreader hempty
  obtain ⟨⟨⟨hmemory, -, -, htail, -⟩, -⟩, -⟩ := hinv
  obtain ⟨-, -, -, -, -, -, -, -, -, hcapacity, -⟩ := hwf
  have hown : s.ReadsOwnBus := ⟨hview, hlistens, hphase, hclk, hdriver, hreader⟩
  have hready : s.rbBus.RoundTripReady (slots s.cfg .bus) :=
    ⟨Nat.lt_add_one_iff.2 hcapacity, hmemory, htail, eq_of_beq hempty⟩
  obtain ⟨t, ht, hdeq, hbus, hend⟩ := hown.roundTrip bs hready
  exact ⟨t, ht, hdeq, hbus, beq_iff_eq.2 hend⟩
end

section
/-! PROOF. The reader's two ends of `RB_BUS`: BUSR.SERVICE offers the sampled lines to it (R157), and BUS.READ
takes its oldest byte out (R160). -/

namespace Sys2Proof.Machine

open Sys2Proof

/-- An enqueue whose result is ignored goes on with the state after RB.ENQ, the byte stored or dropped
(R121). -/
theorem enqueueIgnoring_eq_afterEnqueue {r : RingId} {s : State} (ht : (s.ring r).tail < s.slotsOf r)
    (b : Byte) : enqueueIgnoring r b s = .next (afterEnqueue r b s).2 := by
  rw [enqueueIgnoring, enqueue_eq_afterEnqueue ht]

/-- The sample clears the pending bit only, so the byte meets `RB_BUS` as it was before (R157). -/
theorem serviceBus_of_pending {s : State} (hirq : s.irqPending = true)
    (ht : s.rbBus.tail < slots s.cfg .bus) :
    serviceBus s = .next (afterEnqueue .bus s.d { s with irqPending := false }).2 := by
  rw [serviceBus, if_pos hirq]
  exact enqueueIgnoring_eq_afterEnqueue (r := .bus) (s := (sampleBus s).2) ht s.d

theorem serviceBus_of_not_pending {s : State} (hirq : s.irqPending = false) :
    serviceBus s = .refused (.noStep .notEnabled) := by
  rw [serviceBus, if_neg (by simp [hirq])]

theorem execBusRead_of_some {s t : State} {v : Byte} (h : dequeue .bus s = .ok (some v, t)) :
    execBusRead s = .next (t.respond .client (.byte v)) := by
  rw [execBusRead, h]

theorem execBusRead_of_none {s t : State} (h : dequeue .bus s = .ok (none, t)) :
    execBusRead s = .refused .readEmpty := by
  rw [execBusRead, h]

end Sys2Proof.Machine

open Sys2Proof Sys2Proof.Machine

/-- Settles O36: the pending bit decides whether there is a service at all. -/
theorem serviceSamplesAndEnqueues : Obligations.ServiceSamplesAndEnqueues := by
  unfold Obligations.ServiceSamplesAndEnqueues
  intro s htail
  constructor
  · intro hirq
    rw [exec, execBusrService, serviceBus_of_pending hirq htail, andThen]
  · intro hirq
    rw [exec, execBusrService, serviceBus_of_not_pending hirq, andThen]

/-- Settles O37: with `head` inside the buffer the dequeue is that of R122, and its result decides. -/
theorem readReturnsTheOldestByteOrIsRefused : Obligations.ReadReturnsTheOldestByteOrIsRefused := by
  unfold Obligations.ReadReturnsTheOldestByteOrIsRefused
  intro s hhead
  have hdeq : dequeue .bus s = .ok (afterDequeue .bus s) := dequeue_eq_afterDequeue (r := .bus) hhead
  generalize afterDequeue .bus s = taken at hdeq ⊢
  obtain ⟨x, t⟩ := taken
  constructor
  · rintro v rfl
    exact execBusRead_of_some hdeq
  · rintro rfl
    exact execBusRead_of_none hdeq
end

section
/-! PROOF. The serial bit decoder (R186 to R193): the sample register as ten levels, the end of a frame, the
sampled mechanism as a chain of steps, and a frame on the line sampled within the tolerance. -/

namespace Sys2Proof.Machine

open Sys2Proof

/-! ### The sample register -/

/-- A sample written changes its own slot only (R187). -/
theorem slot_setSlot (w : Slots) (l : Bool) {j k : Nat} (hj : j < 10) (hk : k < 10) :
    slot (setSlot w k l) j = if j = k then l else slot w j := by
  have hbit : (BitVec.twoPow 10 (9 - k)).getLsbD (9 - j) = decide (j = k) := by
    rw [BitVec.getLsbD_twoPow, decide_eq_true (by omega), Bool.true_and, decide_eq_decide]
    omega
  unfold slot setSlot
  cases l with
  | true =>
    rw [if_pos rfl, BitVec.getLsbD_or, hbit]
    by_cases h : j = k <;> simp [h]
  | false =>
    rw [if_neg Bool.false_ne_true, BitVec.getLsbD_and, BitVec.getLsbD_not, hbit]
    by_cases h : j = k <;> simp [h, show 9 - j < 10 by omega]

/-- The register `w` after samples 0 to `n - 1` with the levels `level`. -/
def samplesWritten (level : Nat → Bool) (n : Nat) (w : Slots) : Slots :=
  (List.range n).foldl (fun v k => setSlot v k (level k)) w

theorem samplesWritten_succ (level : Nat → Bool) (n : Nat) (w : Slots) :
    samplesWritten level (n + 1) w = setSlot (samplesWritten level n w) n (level n) := by
  simp [samplesWritten, List.range_succ]

theorem slot_samplesWritten (level : Nat → Bool) (w : Slots) {n j : Nat} (hn : n ≤ 10) (hj : j < 10) :
    slot (samplesWritten level n w) j = if j < n then level j else slot w j := by
  induction n with
  | zero => rfl
  | succ n ih =>
    rw [samplesWritten_succ, slot_setSlot _ _ hj hn, ih (by omega)]
    by_cases hjn : j = n
    · simp [hjn]
    · simp [hjn, show j < n + 1 ↔ j < n by omega]

/-- Slot `k` of the sampled frame is the level of the line at the instant of sample `k` (R187). -/
theorem slot_sampledSlots (c : Config) (wave : List (Nat × Bool)) (t0 : Nat) {k : Nat} (hk : k < 10) :
    slot (sampledSlots c wave t0) k = levelAt wave (sampleTick c t0 k) :=
  (slot_samplesWritten (fun k => levelAt wave (sampleTick c t0 k)) 0#10 le_rfl hk).trans (if_pos hk)

/-- Ten samples leave nothing of what the register held before. -/
theorem samplesWritten_ten (c : Config) (wave : List (Nat × Bool)) (t0 : Nat) (w : Slots) :
    samplesWritten (fun k => levelAt wave (sampleTick c t0 k)) 10 w = sampledSlots c wave t0 :=
  slots_ext fun k hk => by
    rw [slot_samplesWritten _ _ le_rfl hk, if_pos hk, slot_sampledSlots c wave t0 hk]

/-! ### One sample -/

theorem execSbdSample_of_next {k : Fin 10} {s : State} (hbusy : s.sbdBusy = true)
    (hk : s.sbdK = k.castSucc) :
    execSbdSample k s = .next { s with
      sbdS := setSlot s.sbdS k (levelAt s.rxWave (sampleTick s.cfg s.sbdT0 k))
      sbdK := k.succ
      time := max s.time (sampleTick s.cfg s.sbdT0 k)
      sbdResp := .nothing } := by
  rw [execSbdSample, if_pos ⟨hbusy, hk⟩]
  rfl

theorem execSbdSample_refused {k : Fin 10} {s : State} (h : s.sbdBusy = false ∨ s.sbdK.val ≠ k.val) :
    execSbdSample k s = .refused (.noStep .notEnabled) := by
  rw [execSbdSample, if_neg]
  rintro ⟨hbusy, hk⟩
  rcases h with hidle | hne
  · simp [hidle] at hbusy
  · exact hne (congrArg Fin.val hk)

/-! ### The end of a frame -/

/-- The keep-alive value is dropped (R190). -/
theorem finishFrame_keepalive {s : State} (h : packData s.sbdS = s.cfg.keepaliveByte) :
    finishFrame s = .next { s.drop (.keepalive (packData s.sbdS)) with sbdBusy := false } := if_pos h

/-- Every other byte is offered to `RB_SER` (R188). -/
theorem finishFrame_data {s : State} (h : packData s.sbdS ≠ s.cfg.keepaliveByte) :
    finishFrame s = andThen (enqueueIgnoring .ser (packData s.sbdS) s) fun t =>
      .next { t with sbdBusy := false } := if_neg h

/-- With `tail` inside the buffer a frame ends without fault: its byte dropped or offered, the decoder
armed (R188, R190). -/
theorem finishFrame_eq {s : State} (ht : s.rbSer.tail < slots s.cfg .ser) :
    finishFrame s = .next
      { (if packData s.sbdS = s.cfg.keepaliveByte then s.drop (.keepalive (packData s.sbdS))
        else (afterEnqueue .ser (packData s.sbdS) s).2) with sbdBusy := false } := by
  split_ifs with hkeep
  · exact finishFrame_keepalive hkeep
  · rw [finishFrame_data hkeep, enqueueIgnoring_eq_afterEnqueue (r := .ser) ht, andThen]

/-- However a frame ends, the decoder is armed again. -/
theorem finishFrame_sbdBusy {s t : State} (h : finishFrame s = .next t) : t.sbdBusy = false := by
  rcases finishFrame_next h with ⟨-, rfl⟩ | ⟨-, ok, u, -, rfl⟩ <;> rfl

theorem execSbdFinish_of_ready {s : State} (hbusy : s.sbdBusy = true) (hk : s.sbdK = 10) :
    execSbdFinish s = andThen (finishFrame s) fun t => .next (t.respond .sbd .nothing) := by
  rw [execSbdFinish, if_pos ⟨hbusy, hk⟩]

theorem execSbdFinish_refused {s : State} (h : s.sbdBusy = false ∨ s.sbdK.val ≠ 10) :
    execSbdFinish s = .refused (.noStep .notEnabled) := by
  rw [execSbdFinish, if_neg]
  rintro ⟨hbusy, hk⟩
  rcases h with hidle | hne
  · simp [hidle] at hbusy
  · exact hne (congrArg Fin.val hk)

/-! ### What the end of a frame does not look at -/

/-- The elements in which a sampled frame and one given as a whole may differ at their end: `sbd_busy`, the
time and the engine's response. -/
def State.setSbd (busy : Bool) (now : Nat) (x : Response) (s : State) : State :=
  { s with sbdBusy := busy, time := now, sbdResp := x }

section
variable (busy : Bool) (now : Nat) (x : Response) (s : State)

theorem readHead_setSbd (r : RingId) : readHead r (s.setSbd busy now x) =
    ((readHead r s).1, (readHead r s).2.setSbd busy now x) := by
  unfold readHead
  rw [show (s.setSbd busy now x).cfg = s.cfg from rfl]
  cases s.cfg.rbView <;> cases r <;> rfl

theorem writeCell_setSbd (r : RingId) (i : Nat) (b : Byte) : writeCell r i b (s.setSbd busy now x) =
    (writeCell r i b s).map (State.setSbd busy now x) := by
  unfold writeCell
  rw [show (s.setSbd busy now x).slotsOf r = s.slotsOf r from rfl]
  split
  · cases r <;> rfl
  · rfl

theorem ring_setSbd (r : RingId) : (s.setSbd busy now x).ring r = s.ring r := by cases r <;> rfl

theorem publishTail_setSbd (r : RingId) (n : Nat) : publishTail r n (s.setSbd busy now x) =
    (publishTail r n s).setSbd busy now x := by cases r <;> rfl

theorem enqueueIgnoring_setSbd (r : RingId) (b : Byte) : enqueueIgnoring r b (s.setSbd busy now x) =
    andThen (enqueueIgnoring r b s) fun t => .next (t.setSbd busy now x) := by
  simp only [enqueueIgnoring, enqueue, readHead_setSbd, writeCell_setSbd, ring_setSbd,
    show (s.setSbd busy now x).slotsOf r = s.slotsOf r from rfl]
  by_cases hfull : nextIndex (s.slotsOf r) (s.ring r).tail = (readHead r s).1
  · simp only [if_pos hfull]
    rfl
  · simp only [if_neg hfull]
    cases writeCell r (s.ring r).tail b (readHead r s).2 with
    | ok t => simp only [Except.map, publishTail_setSbd, andThen]
    | error f => rfl

theorem finishFrame_setSbd : finishFrame (s.setSbd busy now x) =
    andThen (finishFrame s) fun t => .next (t.setSbd false now x) := by
  by_cases hkeep : packData s.sbdS = s.cfg.keepaliveByte
  · rw [finishFrame_keepalive hkeep, finishFrame_keepalive (s := s.setSbd busy now x) hkeep]
    rfl
  · rw [finishFrame_data hkeep, finishFrame_data (s := s.setSbd busy now x) hkeep,
      show (s.setSbd busy now x).sbdS = s.sbdS from rfl, enqueueIgnoring_setSbd, andThen_assoc, andThen_assoc]
    rfl

/-- That the decoder is busy while it packs and filters leaves no mark: it is armed at the end. -/
theorem finishFrame_busy : finishFrame { s with sbdBusy := busy } = finishFrame s :=
  (finishFrame_setSbd busy s.time s.sbdResp s).trans
    (finishFrame_setSbd s.sbdBusy s.time s.sbdResp s).symm

end

/-! ### A frame given as a whole -/

theorem loadFrame_armed {s : State} (h : s.sbdBusy = false) (w : Slots) :
    loadFrame w s = { s with sbdBusy := true, sbdT0 := s.time, sbdK := 10, sbdS := w } := by
  rw [loadFrame, startFrame_eq, h]
  rfl

theorem wholeFrame_armed {s : State} (h : s.sbdBusy = false) (w : Slots) :
    wholeFrame w s = finishFrame (loadFrame w s) := by
  rw [wholeFrame, h]
  rfl

theorem afterEnqueue_sbdBusy (r : RingId) (b : Byte) (s : State) :
    (afterEnqueue r b s).2.sbdBusy = s.sbdBusy := by
  have hread : (readHead r s).2.sbdBusy = s.sbdBusy := by
    rcases readHead_cases r s with h | ⟨i, h, -⟩ <;> simp [h]
  rw [afterEnqueue_eq]
  split <;> simp [hread]

/-- The frame ends as from a state with the ten levels loaded and the decoder armed (R192). -/
theorem wholeFrame_eq {s : State} (hidle : s.sbdBusy = false) (ht : s.rbSer.tail < slots s.cfg .ser)
    (w : Slots) :
    let loaded : State := { s with sbdT0 := s.time, sbdK := 10, sbdS := w }
    let decoded : State :=
      if packData w = s.cfg.keepaliveByte then loaded.drop (.keepalive (packData w))
      else (afterEnqueue .ser (packData w) loaded).2
    wholeFrame w s = .next decoded := by
  intro loaded decoded
  have harmed : decoded.sbdBusy = false := by
    dsimp only [decoded]
    split_ifs
    · exact hidle
    · exact (afterEnqueue_sbdBusy .ser _ loaded).trans hidle
  calc wholeFrame w s
    _ = finishFrame { loaded with sbdBusy := true } := by rw [wholeFrame_armed hidle, loadFrame_armed hidle]
    _ = finishFrame loaded := finishFrame_busy true loaded
    _ = .next { decoded with sbdBusy := false } := finishFrame_eq (s := loaded) ht
    _ = .next decoded := by rw [← harmed]

/-! ### The sampled mechanism -/

/-- `s` after a start edge and `k` samples: sample `k - 1` was at `t0 + T_BIT * k - T_BIT/2`, and before the
first one no time has passed (R186, R187). -/
def State.sampled (s : State) (k : Fin 11) : State := { s with
  sbdBusy := true
  sbdT0 := s.time
  sbdK := k
  sbdS := samplesWritten (fun j => levelAt s.rxWave (sampleTick s.cfg s.time j)) k s.sbdS
  time := s.time + (k * s.cfg.bitTicks - s.cfg.halfBit)
  sbdResp := .nothing }

theorem exec_sbdStart_sampled {s : State} (h : s.sbdBusy = false) :
    exec .sbdStart s = .next (s.sampled 0) := by
  rw [exec, execSbdStart, startFrame_eq, h]
  simp [State.sampled, samplesWritten, State.respond]

theorem exec_sbdSample_sampled (s : State) (k : Fin 10) :
    exec (.sbdSample k) (s.sampled k.castSucc) = .next (s.sampled k.succ) := by
  have htime : max (s.time + (k * s.cfg.bitTicks - s.cfg.halfBit)) (sampleTick s.cfg s.time k) =
      s.time + ((k + 1) * s.cfg.bitTicks - s.cfg.halfBit) := by
    have hbit : s.cfg.bitTicks = 2 * s.cfg.halfBit := rfl
    rw [sampleTick, Nat.succ_mul]
    omega
  rw [exec, execSbdSample_of_next rfl rfl]
  simp only [State.sampled, Fin.val_castSucc, Fin.val_succ, samplesWritten_succ, htime]

theorem execAll_cons_of_next {i : Instr} {s t : State} (h : exec i s = .next t) (l : List Instr) :
    execAll (i :: l) s = execAll l t := by
  rw [execAll, forEach, h]
  rfl

theorem forEach_map {α β : Type} (f : β → State → Out) (g : α → β) (l : List α) (s : State) :
    forEach f (l.map g) s = forEach (fun a => f (g a)) l s := by
  induction l generalizing s with
  | nil => rfl
  | cons a l ih => exact congrArg (andThen _) (funext ih)

/-- A chain of states, each the next of the one before by the step of its place. -/
theorem forEach_finRange {n : Nat} {f : Fin n → State → Out} {g : Fin (n + 1) → State}
    (h : ∀ k, f k (g k.castSucc) = .next (g k.succ)) :
    forEach f (List.finRange n) (g 0) = .next (g (Fin.last n)) := by
  induction n with
  | zero => rfl
  | succ n ih =>
    have hfirst : f 0 (g 0) = .next (g 1) := h 0
    rw [List.finRange_succ, forEach, hfirst, andThen, forEach_map]
    exact ih (g := fun k => g k.succ) fun k => h k.succ

theorem execAll_samples (s : State) :
    execAll ((List.finRange 10).map Instr.sbdSample) (s.sampled 0) = .next (s.sampled 10) :=
  (forEach_map exec Instr.sbdSample _ _).trans (forEach_finRange (exec_sbdSample_sampled s))

/-- After the ten samples the decoder holds the frame of the ten levels, at the instant of the last. -/
theorem sampled_ten {s : State} (h : s.sbdBusy = false) : s.sampled 10 =
    (loadFrame (sampledSlots s.cfg s.rxWave s.time) s).setSbd true (sampleTick s.cfg s.time 9) .nothing := by
  have htime : s.time + (10 * s.cfg.bitTicks - s.cfg.halfBit) = sampleTick s.cfg s.time 9 := by
    have hbit : s.cfg.bitTicks = 2 * s.cfg.halfBit := rfl
    rw [sampleTick]
    omega
  rw [loadFrame_armed h, ← htime, ← samplesWritten_ten _ _ _ s.sbdS]
  rfl

/-- SBD.FINISH after the ten samples is SBD.FRAME with their levels, at the instant of the last (R192). -/
theorem exec_sbdFinish_sampled {s : State} (h : s.sbdBusy = false) : exec .sbdFinish (s.sampled 10) =
    andThen (exec (.sbdFrame (sampledSlots s.cfg s.rxWave s.time)) s) fun t =>
      .next { t with time := sampleTick s.cfg s.time 9 } := by
  rw [exec, execSbdFinish_of_ready rfl rfl, sampled_ten h, finishFrame_setSbd, exec, execSbdFrame,
    wholeFrame_armed h, andThen_assoc, andThen_assoc]
  refine andThen_congr fun t ht => ?_
  simp only [andThen, State.setSbd, State.respond, finishFrame_sbdBusy ht]

/-! ### A frame on the line -/

/-- A line that takes level `f k` at `t0 + k * period` stands at `f k` until the next change. -/
theorem levelAt_periodic (f : Nat → Bool) {t0 period t n k : Nat} (hk : k < n)
    (hfrom : t0 + k * period ≤ t) (hto : t < t0 + (k + 1) * period) :
    levelAt ((List.range n).reverse.map fun j => (t0 + j * period, f j)) t = f k := by
  induction n with
  | zero => omega
  | succ n ih =>
    rw [List.range_succ, List.reverse_append, List.reverse_singleton, List.singleton_append, List.map_cons,
      levelAt]
    rcases Nat.lt_succ_iff_lt_or_eq.1 hk with hlt | rfl
    · have hmul : (k + 1) * period ≤ n * period := Nat.mul_le_mul_right _ hlt
      rw [if_neg (by omega), ih hlt]
    · rw [if_pos hfrom]

/-- Within the tolerance the instant of sample `k` falls into slot `k` (R193). -/
theorem sampleTick_in_slot {c : Config} {period : Nat} (hshort : 19 * c.bitTicks < 20 * period)
    (hlong : 18 * period < 19 * c.bitTicks) (t0 : Nat) {k : Nat} (hk : k < 10) :
    t0 + k * period ≤ sampleTick c t0 k ∧ sampleTick c t0 k < t0 + (k + 1) * period := by
  have hbit : c.bitTicks = 2 * c.halfBit := rfl
  unfold sampleTick
  interval_cases k <;> omega

theorem levelAt_frameWave {t0 period t k : Nat} (b : Byte) (hk : k < 10)
    (hfrom : t0 + k * period ≤ t) (hto : t < t0 + (k + 1) * period) :
    levelAt (frameWave t0 period b) t = slot (frameSlots false b true) k := by
  have hmul : (k + 1) * period ≤ 10 * period := Nat.mul_le_mul_right _ hk
  rw [frameWave, levelAt, if_neg (by omega)]
  exact levelAt_periodic (slot (frameSlots false b true)) hk hfrom hto

end Sys2Proof.Machine

open Sys2Proof Sys2Proof.Machine

/-- Settles O42: the sample writes its own slot, and only in its turn. -/
theorem sampleTakesTheLevelAtItsInstant : Obligations.SampleTakesTheLevelAtItsInstant := by
  unfold Obligations.SampleTakesTheLevelAtItsInstant
  intro k s
  refine ⟨fun hbusy hk => ⟨_, execSbdSample_of_next hbusy (Fin.ext hk), fun j => ?_, rfl⟩,
    execSbdSample_refused⟩
  rw [slot_setSlot _ _ j.isLt k.isLt]
  simp only [Fin.ext_iff]
  rfl

/-- Settles O43: with the ten samples taken the finish is the end of a frame, which does not fault while `tail`
is inside the buffer. -/
theorem finishFiltersAndEnqueues : Obligations.FinishFiltersAndEnqueues := by
  unfold Obligations.FinishFiltersAndEnqueues
  intro s htail
  refine ⟨fun hbusy hk => ?_, execSbdFinish_refused⟩
  rw [exec, execSbdFinish_of_ready hbusy (Fin.ext hk), finishFrame_eq htail]
  rfl

/-- Settles O44: the three rows are one frame, that of the keep-alive row with its own byte. -/
theorem frameRowsDecodeTenLevels : Obligations.FrameRowsDecodeTenLevels := by
  unfold Obligations.FrameRowsDecodeTenLevels
  intro w start stop s hidle htail loaded decoded
  have hdata : wholeFrame w s = .next decoded := wholeFrame_eq hidle htail w
  refine ⟨?_, hdata, ?_⟩
  · rw [exec, execSbdFrame, hdata]
    rfl
  · rw [exec, execSerKeepalive, wholeFrame_eq hidle htail, packData_frameSlots, if_pos rfl]

/-- Settles O46: the ten samples load the frame, and its end looks neither at the time nor at the response. -/
theorem sampledMechanismIsTheFrame : Obligations.SampledMechanismIsTheFrame := by
  unfold Obligations.SampledMechanismIsTheFrame
  intro s hidle
  have hlast : max s.time (sampleTick s.cfg s.time 9) = sampleTick s.cfg s.time 9 := by
    unfold sampleTick
    omega
  rw [hlast, List.cons_append, execAll_cons_of_next (exec_sbdStart_sampled hidle), execAll_append,
    execAll_samples, andThen, ← exec_sbdFinish_sampled hidle]
  exact andThen_eq_self fun _ _ => rfl

/-- Settles O47: every sample falls into its own slot, so the ten levels are those of the frame. -/
theorem frameReceivedWithinTolerance : Obligations.FrameReceivedWithinTolerance := by
  unfold Obligations.FrameReceivedWithinTolerance
  intro c t0 period b hshort hlong
  have hslots : sampledSlots c (frameWave t0 period b) t0 = frameSlots false b true := by
    refine slots_ext fun k hk => ?_
    obtain ⟨hfrom, hto⟩ := sampleTick_in_slot hshort hlong t0 hk
    rw [slot_sampledSlots _ _ _ hk, levelAt_frameWave b hk hfrom hto]
  exact ⟨hslots, by rw [hslots, packData_frameSlots]⟩
end

section
/-! PROOF. EA.BYTE in the words of R206 to R210: the assembler's four cases on a byte, with the discard of
sequenced mode told by the two note codes. -/

namespace Sys2Proof.Machine

open Sys2Proof

theorem exec_eaByte_of_assemble {b : Byte} {s t : State} {e : Option NoteEvent}
    (h : assemble b s = (e, t)) :
    exec (.eaByte b) s = .next (t.respond .client (.optEvent e)) := by
  rw [exec, execEaByte, assembleStep, h]

/-- A byte that opens a frame is not one that sequenced mode discards (R207, R208). -/
theorem not_discarded_of_opens {m : Mode} {code : Nibble} (h : m = .live ∨ isNoteCode code = true) :
    ¬ (m = .sequenced ∧ code ≠ 9#4 ∧ code ≠ 8#4) := by
  rintro ⟨rfl, hcode⟩
  rw [(isNoteCode_eq_false_iff code).2 hcode] at h
  simp at h

end Sys2Proof.Machine

open Sys2Proof Sys2Proof.Machine

/-- Settles O48: one case of the assembler for each state, and two awaiting an action, where the byte opens a
frame or is discarded. -/
theorem assemblerTakesOneByte : Obligations.AssemblerTakesOneByte := by
  unfold Obligations.AssemblerTakesOneByte
  intro b s code field e
  rcases assemble_cases b s with
    ⟨hs, hopen, h⟩ | ⟨hs, hmode, hnote, h⟩ | ⟨hs, h⟩ | ⟨hs, h⟩ <;>
    rw [exec_eaByte_of_assemble h, hs]
  · have hkept : ¬ (s.cfg.mode = .sequenced ∧ code ≠ 9#4 ∧ code ≠ 8#4) := not_discarded_of_opens hopen
    simp only [if_neg hkept]
    rfl
  · have hdropped : s.cfg.mode = .sequenced ∧ code ≠ 9#4 ∧ code ≠ 8#4 :=
      ⟨hmode, (isNoteCode_eq_false_iff code).1 hnote⟩
    simp only [if_pos hdropped]
    rfl
  · rfl
  · rfl
end

section
/-! PROOF. VA.EVENT in the words of R221 to R227: which of the allocator's cases an event meets, what the scan
for the lowest channel finds, and the pool after all mapped channels are written. -/

namespace Sys2Proof.Machine

open Sys2Proof

/-! ### The case an event meets (R221) -/

theorem isOn_iff (e : NoteEvent) : isOn e = true ↔ e.action = .noteOn ∧ e.velocity ≠ 0#8 := by
  simp [isOn]

theorem isOff_iff (e : NoteEvent) :
    isOff e = true ↔ e.action = .noteOff ∨ (e.action = .noteOn ∧ e.velocity = 0#8) := by
  simp [isOff]

theorem isOn_eq_false_of_isOff {e : NoteEvent} (h : isOff e = true) : isOn e = false := by
  rw [Bool.eq_false_iff, Ne, isOn_iff]
  rintro ⟨hon, hvel⟩
  rcases (isOff_iff e).1 h with hoff | ⟨-, hzero⟩
  · simp [hon] at hoff
  · exact hvel hzero

/-- What is neither Other nor a note switched on is a note switched off. -/
theorem isOff_of_not_on {e : NoteEvent} (hother : e.action ≠ .other)
    (hon : ¬ (e.action = .noteOn ∧ e.velocity ≠ 0#8)) : isOff e = true := by
  rw [isOff_iff]
  cases ha : e.action with
  | noteOn => exact .inr ⟨rfl, by simpa [ha] using hon⟩
  | noteOff => exact .inl rfl
  | other => exact absurd ha hother

section
variable {e : NoteEvent} {s : State}

theorem exec_vaEvent_liveOn (hm : s.cfg.mode = .live) (h : isOn e = true) :
    exec (.vaEvent e) s = liveOn e s := by
  simp [exec, execVaEvent, hm, h]

theorem exec_vaEvent_liveOff (hm : s.cfg.mode = .live) (h : isOff e = true) :
    exec (.vaEvent e) s = liveOff e s := by
  simp [exec, execVaEvent, hm, h, isOn_eq_false_of_isOff h]

theorem exec_vaEvent_seqOn (hm : s.cfg.mode = .sequenced) (h : isOn e = true) :
    exec (.vaEvent e) s = seqOn e s := by
  simp [exec, execVaEvent, hm, h]

theorem exec_vaEvent_seqOff (hm : s.cfg.mode = .sequenced) (h : isOff e = true) :
    exec (.vaEvent e) s = seqOff e s := by
  simp [exec, execVaEvent, hm, h, isOn_eq_false_of_isOff h]

theorem exec_vaEvent_other (h : e.action = .other) : exec (.vaEvent e) s = answerPairs [] s := by
  have hon : isOn e = false := by simp [isOn, h]
  have hoff : isOff e = false := by simp [isOff, h]
  cases hm : s.cfg.mode <;> simp [exec, execVaEvent, hm, hon, hoff]

end

/-! ### Note codes (R224) -/

theorem noteCode_of_inTable {c : Config} {key : Byte}
    (h : c.keyOffset ≤ key.toNat ∧ key.toNat < c.keyOffset + c.nNotes) :
    noteCode c key = some (BitVec.ofNat 8 (key.toNat - c.keyOffset)) := if_pos h

theorem noteCode_of_not_inTable {c : Config} {key : Byte}
    (h : ¬ (c.keyOffset ≤ key.toNat ∧ key.toNat < c.keyOffset + c.nNotes)) :
    noteCode c key = none := if_neg h

/-! ### The scan for the lowest channel (R222, R223) -/

theorem firstHolding_eq_some {k : Byte} {i : Nat} {s : State} (hlen : s.assignedKey.length = s.cfg.nCh)
    (hi : s.assignedKey[i]? = some k) (hlow : ∀ j, j < i → s.assignedKey[j]? ≠ some k) :
    firstHolding k s = some i := by
  cases hf : firstHolding k s with
  | none =>
    obtain ⟨hbound, -⟩ := List.getElem?_eq_some_iff.1 hi
    exact absurd hi (firstHolding_none hf i (hlen ▸ hbound))
  | some j =>
    obtain ⟨-, hj, hlowest⟩ := firstHolding_some hf
    have hij : j ≤ i := not_lt.1 fun h => hlowest i h hi
    have hji : i ≤ j := not_lt.1 fun h => hlow j h hj
    rw [le_antisymm hij hji]

theorem firstHolding_eq_none {k : Byte} {s : State} (h : k ∉ s.assignedKey) :
    firstHolding k s = none := by
  cases hf : firstHolding k s with
  | none => rfl
  | some i =>
    obtain ⟨-, hi, -⟩ := firstHolding_some hf
    exact absurd (List.mem_of_getElem? hi) h

/-! ### Live mode -/

theorem liveOn_of_none_free {e : NoteEvent} {s : State} (hf : firstHolding s.cfg.offSentinel s = none) :
    liveOn e s = answerPairs [] (s.drop (.noFreeChannel e)) := by
  simp [liveOn, hf]

theorem liveOn_of_free {e : NoteEvent} {s : State} {i : Nat} {n : Byte}
    (hf : firstHolding s.cfg.offSentinel s = some i) (hn : noteCode s.cfg e.key = some n) :
    liveOn e s = answerPairs [(n, channelByte i)] (assignKey i e.key s) := by
  simp [liveOn, hf, hn]

theorem liveOn_of_no_code {e : NoteEvent} {s : State} {i : Nat}
    (hf : firstHolding s.cfg.offSentinel s = some i) (hn : noteCode s.cfg e.key = none) :
    liveOn e s = .refused .keyOutOfRange := by
  simp [liveOn, hf, hn]

theorem liveOff_of_unheld {e : NoteEvent} {s : State} (hf : firstHolding e.key s = none) :
    liveOff e s = answerPairs [] (s.drop (.noteoffUnheld e)) := by
  simp [liveOff, hf]

theorem liveOff_of_held {e : NoteEvent} {s : State} {i : Nat} (hf : firstHolding e.key s = some i) :
    liveOff e s =
      answerPairs [(s.cfg.offSentinel, channelByte i)] (assignKey i s.cfg.offSentinel s) := by
  simp [liveOff, hf]

/-! ### Sequenced mode -/

/-- The pool after `k` is written to every channel of `l` in turn. -/
def setChannels (k : Byte) (l : List Nat) (keys : List Byte) : List Byte :=
  l.foldl (fun ks m => ks.set m k) keys

theorem setChannels_cons (k : Byte) (m : Nat) (l : List Nat) (keys : List Byte) :
    setChannels k (m :: l) keys = setChannels k l (keys.set m k) := rfl

@[simp] theorem length_setChannels (k : Byte) (l : List Nat) (keys : List Byte) :
    (setChannels k l keys).length = keys.length := by
  induction l generalizing keys with
  | nil => rfl
  | cons m rest ih => rw [setChannels_cons, ih, List.length_set]

/-- A channel holds `k` if it is in `l`, named once or several times, and what it held if it is not. -/
theorem getElem?_setChannels (k : Byte) (l : List Nat) {keys : List Byte} {i : Nat}
    (hi : i < keys.length) :
    (setChannels k l keys)[i]? = if i ∈ l then some k else keys[i]? := by
  induction l generalizing keys with
  | nil => rfl
  | cons m rest ih =>
    rw [setChannels_cons, ih (by rwa [List.length_set]), List.getElem?_set]
    by_cases hrest : i ∈ rest
    · simp [hrest]
    · by_cases hm : m = i
      · simp [hm, hi]
      · simp [hrest, hm, Ne.symm hm]

/-- A round over channels the unit has writes them all (R226, R227). -/
theorem forEach_assignMapped {k : Byte} {l : List Nat} {s : State}
    (hl : ∀ m ∈ l, m < s.assignedKey.length) :
    forEach (assignMapped k) l s =
      .next { s with assignedKey := setChannels k l s.assignedKey } := by
  induction l generalizing s with
  | nil => rfl
  | cons m rest ih =>
    obtain ⟨hm, hrest⟩ := List.forall_mem_cons.1 hl
    have hwrite : assignMapped k m s = .next (assignKey m k s) := if_pos hm
    rw [forEach, hwrite, andThen, ih (by simpa [assignKey] using hrest)]
    rfl

/-- A sequenced event that writes `k` to every channel mapped to `h` and answers `code` for each. -/
def switchMapped (k code : Byte) (h : Nibble) (s : State) : Out :=
  andThen (forEach (assignMapped k) (mappedChannels s.cfg h) s)
    (answerPairs ((mappedChannels s.cfg h).map fun i => (code, channelByte i)))

theorem seqOff_eq (e : NoteEvent) (s : State) :
    seqOff e s = switchMapped s.cfg.offSentinel s.cfg.offSentinel e.channel s := rfl

theorem seqOn_of_code {e : NoteEvent} {s : State} {n : Byte} (hn : noteCode s.cfg e.key = some n) :
    seqOn e s = switchMapped e.key n e.channel s := by
  unfold seqOn switchMapped
  cases hmap : mappedChannels s.cfg e.channel with
  | nil => rfl
  | cons m ms => rw [hn]

/-- With no channel mapped no note code is needed. -/
theorem seqOn_of_unmapped {e : NoteEvent} {s : State} (hmap : mappedChannels s.cfg e.channel = [])
    (code : Byte) : seqOn e s = switchMapped e.key code e.channel s := by
  simp only [seqOn, switchMapped, hmap]
  rfl

theorem seqOn_of_no_code {e : NoteEvent} {s : State} (hmap : mappedChannels s.cfg e.channel ≠ [])
    (hn : noteCode s.cfg e.key = none) : seqOn e s = .refused .keyOutOfRange := by
  unfold seqOn
  cases hm : mappedChannels s.cfg e.channel with
  | nil => exact absurd hm hmap
  | cons m ms => rw [hn]

theorem switchMapped_next {k code : Byte} {h : Nibble} {s : State} (hs : s.InBounds) :
    switchMapped k code h s = .next { s with
      assignedKey := setChannels k (mappedChannels s.cfg h) s.assignedKey,
      clientResp := .pairs ((mappedChannels s.cfg h).map fun i => (code, channelByte i)) } := by
  have hl : ∀ m ∈ mappedChannels s.cfg h, m < s.assignedKey.length := fun m hm =>
    (hs.mappedChannels_lt hm).trans_eq hs.keys.symm
  rw [switchMapped, forEach_assignMapped hl]
  rfl

/-- What a sequenced event does that is not refused, in the words of R226 and R227. -/
theorem switchMapped_reaches {k code : Byte} {h : Nibble} {s : State} (hs : s.InBounds) :
    ∃ keys : List Byte,
      switchMapped k code h s = .next { s with
        assignedKey := keys,
        clientResp := .pairs ((mappedChannels s.cfg h).map fun i => (code, channelByte i)) } ∧
      keys.length = s.assignedKey.length ∧
      ∀ i, i < s.cfg.nCh →
        keys[i]? = if i ∈ mappedChannels s.cfg h then some k else s.assignedKey[i]? :=
  ⟨_, switchMapped_next hs, length_setChannels _ _ _, fun _ hi =>
    getElem?_setChannels _ _ (hi.trans_eq hs.keys.symm)⟩

/-! ### Both modes -/

/-- Of a NoteOff only the record of a drop shows more than its key and MIDI channel (R229). -/
theorem off_events_agree {e f : NoteEvent} {s : State} (hs : s.InBounds) (he : isOff e = true)
    (hf : isOff f = true) (hkey : e.key = f.key) (hchan : e.channel = f.channel) :
    ∃ t u, exec (.vaEvent e) s = .next t ∧ exec (.vaEvent f) s = .next u ∧
      t.assignedKey = u.assignedKey ∧ t.clientResp = u.clientResp := by
  cases hm : s.cfg.mode with
  | live =>
    rw [exec_vaEvent_liveOff hm he, exec_vaEvent_liveOff hm hf]
    cases hheld : firstHolding f.key s with
    | none =>
      rw [liveOff_of_unheld hheld, liveOff_of_unheld (hkey ▸ hheld)]
      exact ⟨_, _, rfl, rfl, rfl, rfl⟩
    | some i =>
      rw [liveOff_of_held hheld, liveOff_of_held (hkey ▸ hheld)]
      exact ⟨_, _, rfl, rfl, rfl, rfl⟩
  | sequenced =>
    rw [exec_vaEvent_seqOff hm he, exec_vaEvent_seqOff hm hf, seqOff_eq, seqOff_eq, hchan]
    exact ⟨_, _, switchMapped_next hs, switchMapped_next hs, rfl, rfl⟩

end Sys2Proof.Machine

open Sys2Proof Sys2Proof.Machine

/-- Settles O50: the scan for a free channel finds the lowest one or none, and the note code is there exactly
for a key of the table. -/
theorem liveNoteOnTakesTheLowestFreeChannel : Obligations.LiveNoteOnTakesTheLowestFreeChannel := by
  unfold Obligations.LiveNoteOnTakesTheLowestFreeChannel
  intro h key vel s hm hvel hlen e inTable
  rw [exec_vaEvent_liveOn hm ((isOn_iff e).2 ⟨rfl, hvel⟩)]
  refine ⟨fun i hi hlow => ?_, fun hnone => liveOn_of_none_free (firstHolding_eq_none hnone)⟩
  have hfree := firstHolding_eq_some hlen hi hlow
  exact ⟨fun hin => liveOn_of_free hfree (noteCode_of_inTable hin),
    fun hout => liveOn_of_no_code hfree (noteCode_of_not_inTable hout)⟩

/-- Settles O51: the scan for a holder of the key finds the lowest one or none. -/
theorem liveNoteOffReleasesTheLowestHolder : Obligations.LiveNoteOffReleasesTheLowestHolder := by
  unfold Obligations.LiveNoteOffReleasesTheLowestHolder
  intro e s hm hoff hlen
  rw [exec_vaEvent_liveOff hm ((isOff_iff e).2 hoff)]
  exact ⟨fun i hi hlow => liveOff_of_held (firstHolding_eq_some hlen hi hlow),
    fun hnone => liveOff_of_unheld (firstHolding_eq_none hnone)⟩

/-- Settles O52: an event switched off, one with no channel mapped and one whose key has a note code all write
every mapped channel; what is left is refused. -/
theorem sequencedEventsReachEveryMappedChannel :
    Obligations.SequencedEventsReachEveryMappedChannel := by
  unfold Obligations.SequencedEventsReachEveryMappedChannel
  intro e s hinv hwf hm hother on mapped inTable
  have hs := hinv.inBounds hwf
  constructor
  · intro hon hmap hout
    rw [exec_vaEvent_seqOn hm ((isOn_iff e).2 hon)]
    exact seqOn_of_no_code hmap (noteCode_of_not_inTable hout)
  · intro hreach newKey code
    have hswitch : exec (.vaEvent e) s = switchMapped newKey code e.channel s := by
      by_cases hon : on
      · simp only [newKey, code, if_pos hon]
        rw [exec_vaEvent_seqOn hm ((isOn_iff e).2 hon)]
        rcases hreach with hnot | hmap | hin
        · exact absurd hon hnot
        · exact seqOn_of_unmapped hmap _
        · exact seqOn_of_code (noteCode_of_inTable hin)
      · simp only [newKey, code, if_neg hon]
        exact exec_vaEvent_seqOff hm (isOff_of_not_on hother hon)
    rw [hswitch]
    exact switchMapped_reaches hs

/-- Settles O54: both are switched off, with the same key and MIDI channel. -/
theorem velocityZeroActsAsNoteOff : Obligations.VelocityZeroActsAsNoteOff := by
  unfold Obligations.VelocityZeroActsAsNoteOff
  intro h key vel s hinv hwf
  exact off_events_agree (hinv.inBounds hwf) ((isOff_iff _).2 (.inr ⟨rfl, rfl⟩))
    ((isOff_iff _).2 (.inl rfl)) rfl rfl

/-- Settles O53: Other is neither on nor off. -/
theorem otherEventsChangeNothing : Obligations.OtherEventsChangeNothing := by
  unfold Obligations.OtherEventsChangeNothing
  intro e s h
  exact exec_vaEvent_other h
end

section
/-! PROOF. SS.PACKET and SS.CHECK on one channel (R241 to R245): one equation per case, what a row of checks
makes of a deadline (R248), and that no other channel is touched (R251). -/

namespace Sys2Proof.Machine

open Sys2Proof

/-! ### SS.PACKET in its three cases (R241) -/

/-- Out of range (R243): no such channel, or a note code outside the interval table. -/
theorem intake_of_out_of_range {f1 f2 : Byte} {s : State}
    (h : f2.toNat ≥ s.cfg.nCh ∨ (f1 ≠ s.cfg.offSentinel ∧ f1.toNat ≥ s.cfg.nNotes)) :
    intake f1 f2 s = .next (s.drop (.pktRange f1 f2)) := by
  unfold intake
  by_cases hch : s.cfg.nCh ≤ f2.toNat
  · rw [if_pos hch]
  · obtain ⟨hoff, hnote⟩ := h.resolve_left hch
    have hnone : s.cfg.intervalUs[f1.toNat]? = none := List.getElem?_eq_none hnote
    simp only [if_neg hch, if_neg hoff, hnone]

/-- Off (R242). -/
theorem intake_off {f2 : Byte} {k : Channel} {s : State} (hch : f2.toNat < s.cfg.nCh)
    (hk : s.ch[f2.toNat]? = some k) :
    intake s.cfg.offSentinel f2 s = .next (setChannel f2.toNat { k with active := false } s) := by
  simp only [intake, if_neg (not_le.2 hch), hk, if_true]

/-- On (R244). -/
theorem intake_on {f1 f2 : Byte} {d : Nat} {s : State} (hlen : s.ch.length = s.cfg.nCh)
    (hch : f2.toNat < s.cfg.nCh) (hoff : f1 ≠ s.cfg.offSentinel)
    (hd : s.cfg.intervalUs[f1.toNat]? = some d) :
    intake f1 f2 s = .next (activate f2.toNat d s) := by
  have hk : s.ch[f2.toNat]? = some s.ch[f2.toNat] := List.getElem?_eq_getElem (hlen ▸ hch)
  simp only [intake, if_neg (not_le.2 hch), if_neg hoff, hd, hk]

/-- SS.PACKET answers nothing on the client's port (R241). -/
theorem exec_ssPacket_of_intake {f1 f2 : Byte} {s t : State} (h : intake f1 f2 s = .next t) :
    exec (.ssPacket f1 f2) s = .next { t with clientResp := .nothing } := by
  simp only [exec, execSsPacket, h, andThen]
  rfl

/-! ### SS.CHECK (R245) -/

theorem exec_ssCheck_eq {c : Byte} {k : Channel} {s : State} (hinv : s.Inv)
    (hk : s.ch[c.toNat]? = some k) :
    exec (.ssCheck c) s = .next { s with
      ch := s.ch.set c.toNat (k.checkedAt s.now)
      trace := s.trace ++ (duePulse s.ch (fun _ => s.now) c.toNat).toList
      clientResp := .nothing } := by
  obtain ⟨-, ⟨hlen, hpin, -⟩, -⟩ := s.inv_iff.1 hinv
  have hc : c.toNat < s.cfg.nCh := hlen ▸ (List.getElem?_eq_some_iff.1 hk).1
  simp only [exec, execSsCheck, if_pos hc, check_eq hk hpin, andThen]
  rfl

/-- A check moves the deadline on by as many intervals as it emits pulses, at whatever time it is made
(R245, R248). -/
theorem exec_ssCheck_deadline_follows_pulses {c : Byte} {k : Channel} {s : State} (hinv : s.Inv)
    (hk : s.ch[c.toNat]? = some k) :
    ∃ t n, exec (.ssCheck c) s = .next t ∧ t.Inv ∧
      pulseCount c.toNat t.trace = pulseCount c.toNat s.trace + n ∧
      t.ch[c.toNat]? = some { k with deadline := k.deadline + n * k.interval } := by
  have hexec := exec_ssCheck_eq hinv hk
  have hc : c.toNat < s.ch.length := (List.getElem?_eq_some_iff.1 hk).1
  refine ⟨_, if k.active ∧ k.deadline < s.now then 1 else 0, hexec,
    (inv_execSsCheck hinv c).of_next hexec, ?_, ?_⟩
  · rw [pulseCount_append, pulseCount_duePulse, duePulse_of_channel hk]
    by_cases hdue : k.active = true ∧ k.deadline < s.now <;> simp [hdue]
  · rw [List.getElem?_set_self hc, Channel.checkedAt]
    by_cases hdue : k.active = true ∧ k.deadline < s.now <;> simp [hdue]

/-- Any number of checks of an active channel, each at a time of its own (R248). -/
theorem checks_deadline_follows_pulses {c : Byte} {d : Nat} (times : List Nat) {due : Nat} {s : State}
    (hinv : s.Inv) (hk : s.ch[c.toNat]? = some ⟨true, d, due⟩) :
    ∃ t n, forEach (fun τ u => exec (.ssCheck c) { u with time := τ }) times s = .next t ∧
      pulseCount c.toNat t.trace = pulseCount c.toNat s.trace + n ∧
      t.ch[c.toNat]? = some ⟨true, d, due + n * d⟩ := by
  induction times generalizing due s with
  | nil => exact ⟨s, 0, rfl, rfl, by simpa using hk⟩
  | cons τ times ih =>
    have hinvτ : State.Inv { s with time := τ } := hinv
    obtain ⟨u, m, hcheck, hu, hfirst, hku⟩ := exec_ssCheck_deadline_follows_pulses hinvτ hk
    obtain ⟨t, n, hrest, hpulses, hkt⟩ := ih hu hku
    refine ⟨t, m + n, ?_, ?_, ?_⟩
    · rw [forEach, hcheck, andThen, hrest]
    · rw [hpulses, hfirst, Nat.add_assoc]
    · rw [hkt, Nat.add_mul, Nat.add_assoc]

/-! ### The other channels (R251) -/

/-- Channel `j` has the same record in `t` as in `s`, and has not pulsed between them. -/
def SameChannel (j : Nat) (s t : State) : Prop :=
  t.ch[j]? = s.ch[j]? ∧ pulseCount j t.trace = pulseCount j s.trace

theorem sameChannel_setChannel {c j : Nat} (hj : j ≠ c) (k : Channel) (s : State) :
    SameChannel j s (setChannel c k s) :=
  ⟨List.getElem?_set_ne hj.symm, rfl⟩

theorem sameChannel_drop (j : Nat) (d : Drop) (s : State) : SameChannel j s (s.drop d) :=
  ⟨rfl, by simp [pulseCount]⟩

theorem sameChannel_pulse {c j : Nat} (hj : j ≠ c) (n : Nat) (s : State) :
    SameChannel j s (pulse c n s) :=
  ⟨rfl, by simp [pulse, pulseCount, hj.symm]⟩

theorem SameChannel.trans {j : Nat} {s t u : State} (h : SameChannel j s t) (h' : SameChannel j t u) :
    SameChannel j s u :=
  ⟨h'.1.trans h.1, h'.2.trans h.2⟩

theorem SameChannel.respond {j : Nat} {s t : State} (h : SameChannel j s t) (a : Agent) (x : Response) :
    SameChannel j s (t.respond a x) := by
  cases a <;> exact h

theorem intake_sameChannel {f1 f2 : Byte} {j : Nat} {s t : State} (hj : j ≠ f2.toNat)
    (h : intake f1 f2 s = .next t) : SameChannel j s t := by
  rcases intake_next h with rfl | ⟨-, k, -, rfl⟩ | ⟨-, d, -, rfl⟩
  · exact sameChannel_drop j _ s
  · exact sameChannel_setChannel hj _ s
  · exact sameChannel_setChannel hj _ s

theorem check_sameChannel {c j : Nat} {s t : State} (hj : j ≠ c) (h : check c s = .next t) :
    SameChannel j s t := by
  obtain ⟨k, -, ⟨-, -, rfl⟩ | ⟨-, rfl⟩⟩ := check_next h
  · exact (sameChannel_pulse hj _ s).trans (sameChannel_setChannel hj _ _)
  · exact ⟨rfl, rfl⟩

/-- Answering the client afterwards touches no channel. -/
theorem sameChannel_of_respond {o : Out} {j : Nat} {s t : State} {a : Agent} {x : Response}
    (ho : ∀ u, o = .next u → SameChannel j s u)
    (h : andThen o (fun u => .next (u.respond a x)) = .next t) : SameChannel j s t := by
  obtain ⟨u, hu, hrespond⟩ := andThen_next h
  obtain rfl := Host.Outcome.next.inj hrespond
  exact (ho u hu).respond a x

theorem exec_ssPacket_sameChannel {f1 f2 : Byte} {j : Nat} {s t : State} (hj : j ≠ f2.toNat)
    (h : exec (.ssPacket f1 f2) s = .next t) : SameChannel j s t :=
  sameChannel_of_respond (fun _ hu => intake_sameChannel hj hu) h

theorem exec_ssCheck_sameChannel {c : Byte} {j : Nat} {s t : State} (hj : j ≠ c.toNat)
    (h : exec (.ssCheck c) s = .next t) : SameChannel j s t := by
  by_cases hc : c.toNat < s.cfg.nCh
  · simp only [exec, execSsCheck, if_pos hc] at h
    exact sameChannel_of_respond (fun _ hu => check_sameChannel hj hu) h
  · simp [exec, execSsCheck, if_neg hc] at h

end Sys2Proof.Machine

open Sys2Proof Sys2Proof.Machine

/-- Settles O55: the three cases of the packet intake. -/
theorem packetSwitchesOneChannel : Obligations.PacketSwitchesOneChannel := by
  unfold Obligations.PacketSwitchesOneChannel
  intro f1 f2 s hlen
  refine ⟨fun hrange => exec_ssPacket_of_intake (intake_of_out_of_range hrange), ?_,
    fun d hch hoff hd => exec_ssPacket_of_intake (intake_on hlen hch hoff hd)⟩
  rintro k hk rfl
  exact exec_ssPacket_of_intake (intake_off (hlen ▸ (List.getElem?_eq_some_iff.1 hk).1) hk)

/-- Settles O56: the check of a channel, due or not. -/
theorem checkPulsesStrictlyAfterTheDeadline : Obligations.CheckPulsesStrictlyAfterTheDeadline := by
  unfold Obligations.CheckPulsesStrictlyAfterTheDeadline
  intro c k s hinv hk
  change exec (.ssCheck c) s = .next (if k.active ∧ k.deadline < s.now then _ else _)
  rw [exec_ssCheck_eq hinv hk, duePulse_of_channel hk, Channel.checkedAt]
  by_cases hdue : k.active = true ∧ k.deadline < s.now
  · simp only [if_pos hdue, Option.toList_some]
    rfl
  · obtain ⟨hc, hget⟩ := List.getElem?_eq_some_iff.1 hk
    have hset : s.ch.set c.toNat k = s.ch := hget ▸ List.set_getElem_self hc
    simp only [if_neg hdue, hset, Option.toList_none, List.append_nil]

/-- Settles O58: the activation puts the deadline one interval from now, and every pulse moves it on by one. -/
theorem deadlinesDoNotDrift : Obligations.DeadlinesDoNotDrift := by
  unfold Obligations.DeadlinesDoNotDrift
  intro f1 c d times s hinv hc hoff hd
  obtain ⟨-, ⟨hlen, -, -⟩, -⟩ := s.inv_iff.1 hinv
  have hactivate := intake_on hlen hc hoff hd
  have hinvActive : (activate c.toNat d s).Inv := (inv_intake hinv f1 c).of_next hactivate
  have hactive : (activate c.toNat d s).ch[c.toNat]? = some ⟨true, d, s.now + d⟩ :=
    List.getElem?_set_self (hlen ▸ hc)
  obtain ⟨t, k, hrun, hpulses, hk⟩ := checks_deadline_follows_pulses times
    (hinvActive.respond .client .nothing) hactive
  refine ⟨_, t, k, exec_ssPacket_of_intake hactivate, hrun, hpulses, ?_⟩
  have hdeadline : s.now + (k + 1) * d = s.now + d + k * d := by ring
  rw [hk, hdeadline]

/-- Settles O60: neither operation writes outside its channel. -/
theorem channelsAreIndependent : Obligations.ChannelsAreIndependent := by
  unfold Obligations.ChannelsAreIndependent
  rintro f1 c j i s t (rfl | rfl) hexec hj
  · exact exec_ssCheck_sameChannel hj hexec
  · exact exec_ssPacket_sameChannel hj hexec
end

section
/-! PROOF. The state after reset (R300 to R307): both ring buffers are the empty one, which is coherent at any
capacity, and nothing is in progress on them; every channel has the record, the pin and the key of its reset. -/

namespace Sys2Proof.Machine

open Sys2Proof

/-! ### The empty ring buffer (R300) -/

namespace Ring

variable {n : Nat}

theorem reset_sound (hn : 0 < n) : Ring.reset.Sound n :=
  have hlisted (P : Host.Cell → Prop) : ∀ e ∈ Ring.reset.buf, P e := List.forall_mem_nil P
  ⟨⟨.nil, hlisted _⟩, hlisted _, hn, hn, hn, hn, hn, hn⟩

theorem reset_count (hn : 0 < n) : Ring.reset.count n = 0 := ahead_self hn

theorem reset_headLag (v : RbView) (hn : 0 < n) : Ring.reset.headLag v n = 0 := by
  cases v with
  | immediate => rfl
  | stale => simp [headLag, Ring.reset, ahead_self hn]

theorem reset_tailLag (v : RbView) (hn : 0 < n) : Ring.reset.tailLag v n = 0 := by
  cases v with
  | immediate => rfl
  | stale => simp [tailLag, Ring.reset, ahead_self hn]

/-- Neither side has seen anything yet that it could lag behind. -/
theorem reset_viewSound (v : RbView) (hn : 0 < n) : Ring.reset.ViewSound v n := by
  simp [ViewSound, reset_count hn, reset_headLag v hn, reset_tailLag v hn]

theorem reset_coherent (v : RbView) (hn : 0 < n) : Ring.reset.Coherent v n none none where
  sound := reset_sound hn
  views := reset_viewSound v hn
  enq := by simp
  deq := by simp

end Ring

/-! ### Reset release -/

namespace State

variable (c : Config) (t : Nat) (level : Bool)

@[simp] theorem resetWith_ring (r : RingId) : (resetWith c t level).ring r = Ring.reset := by
  cases r <;> rfl

@[simp] theorem resetWith_enqPoint (r : RingId) : (resetWith c t level).enqPoint r = none := by
  cases r <;> rfl

@[simp] theorem resetWith_deqPoint (r : RingId) : (resetWith c t level).deqPoint r = none := rfl

/-- A ring buffer has one cell more than it holds bytes (R25), so the empty one has its cell 0. -/
theorem resetWith_coherent (r : RingId) : (resetWith c t level).Coherent r := by
  unfold State.Coherent
  rw [resetWith_ring, resetWith_enqPoint, resetWith_deqPoint]
  exact Ring.reset_coherent _ (Nat.succ_pos _)

theorem resetWith_channelled : (resetWith c t level).Channelled :=
  ⟨List.length_replicate, rfl, List.length_replicate⟩

/-- No unit drives the bus yet, and `CLK` is 0 (R301). -/
theorem resetWith_busSound : (resetWith c t level).BusSound := by
  simp [BusSound, resetWith]

/-- Channel `i` after reset: inactive, its pin low, no key assigned to it (R304, R305). -/
theorem resetWith_channel {i : Nat} (hi : i < c.nCh) :
    (resetWith c t level).ch[i]? = some ⟨false, 0, 0⟩ ∧
      (resetWith c t level).stepPin[i]? = some false ∧
      (resetWith c t level).assignedKey[i]? = some c.offSentinel :=
  ⟨List.getElem?_replicate_of_lt hi, List.getElem?_replicate_of_lt hi,
    List.getElem?_replicate_of_lt hi⟩

end State

end Sys2Proof.Machine

open Sys2Proof Sys2Proof.Machine

/-- Settles O8: the invariant told ring buffer by ring buffer, each of them the empty one. -/
theorem resetMeetsInvariant : Obligations.ResetMeetsInvariant := by
  unfold Obligations.ResetMeetsInvariant
  intro c t level
  exact (State.inv_iff _).2 ⟨State.resetWith_coherent c t level, State.resetWith_channelled c t level,
    State.resetWith_busSound c t level⟩

/-- Settles O14: the rows of the table for the ring buffers and for the channels by their lemmas, the other
rows by the value reset gives the element. -/
theorem resetHoldsTheSpecifiedValues : Obligations.ResetHoldsTheSpecifiedValues := by
  unfold Obligations.ResetHoldsTheSpecifiedValues
  intro c t level s
  have hring : ∀ r, s.ring r = Ring.reset := State.resetWith_ring c t level
  refine ⟨fun r => ?_, rfl, rfl, rfl, rfl, rfl, fun i hi => ?_, rfl⟩
  · rw [hring r]
    exact ⟨rfl, rfl, rfl, rfl⟩
  · obtain ⟨hch, hpin, hkey⟩ := State.resetWith_channel c t level hi
    exact ⟨⟨_, hch, rfl⟩, hpin, hkey⟩
end
